-- ==== Sys2Proof/Word.lean ====
section
/-! DEFINITION. The widths the spec fixes (00_scope.md R7, R8, R9): bytes of IN, 16-bit image
sizes, 32-bit registers, palette entries and accumulator cells. -/

namespace Sys2Proof

/-- A byte of IN, SCR or RB (R9). -/
abbrev Byte := BitVec 8

/-- An unsigned 16-bit field: WIDTH, HEIGHT, TCOLOR, ROW (R8). -/
abbrev Half := BitVec 16

/-- A register of the 32-bit window (R7, R25). -/
abbrev Word := BitVec 32

/-- A palette entry: R in 23:16, G in 15:8, B in 7:0 (R44, R48). -/
abbrev Rgb := BitVec 24

/-- An accumulator cell, wide enough for either ACC_WIDTH (R7, R50). -/
abbrev AccCell := BitVec 9

/-- Storage by index, listing only the cells that do not hold 0. Its canonical form is
`Cells.wf`: indexes strictly rising, no listed value 0. -/
abbrev Cells (w : Nat) := List (Nat × BitVec w)

end Sys2Proof
end

