-- ==== Sys2Proof/Config.lean ====
section
/-! DEFINITION. What an implementation fixes (00_scope.md R7) and the values the spec leaves free
(93_implementation_defined.md M2, M4–M7). A free value is an opaque constant without a body,
applied to the count of draws in State: no proof can see what it is. -/

namespace Sys2Proof

/-- ACC_WIDTH, the width of an accumulator cell: 8 or 9 (R7, conflict C1). -/
inductive AccWidth where
  | eight
  | nine
  deriving DecidableEq, Repr

/-- The number of bits of a cell (R7). -/
def AccWidth.bits : AccWidth → Nat
  | .eight => 8
  | .nine => 9

/-- The parameters of R7. They are arguments of the model: State holds them and no step
changes them. -/
structure Params where
  /-- IN_LEN, the size of IN in bytes, 0 .. 2^32 − 1. -/
  inLen : Word
  /-- MAX_WIDTH, the largest WIDTH a session accepts, 1 .. 65535. -/
  maxWidth : Half
  /-- ACC_WIDTH. -/
  accWidth : AccWidth
  /-- REG_BASE, 2 KiB aligned. R7 gives no width: 32 bits, as every bus address here (DESIGN CHOICE,
  log 24). -/
  regBase : Word
  deriving DecidableEq, Repr

/-- The legal values of R7's table. -/
def Params.wf (p : Params) : Bool :=
  p.maxWidth != 0 && p.regBase.toNat % 2048 == 0

/-- The values R7 gives for this hardware. IN_LEN and REG_BASE are OPEN there: the largest
IN and base 0 stand here (DESIGN CHOICE, log 3). -/
def Params.thisHardware : Params :=
  { inLen := 0xFFFFFFFF, maxWidth := 65535, accWidth := .nine, regBase := 0 }

/-- ROW_VALID as a read in BUSY returns it (R55, M2). -/
opaque Config.freeRowValid : Nat → Bool

/-- ROW as a read in BUSY returns it (R55, M2). -/
opaque Config.freeRow : Nat → Half

/-- CURSOR as a read in BUSY returns it (R55, M2). -/
opaque Config.freeCursor : Nat → Word

/-- Where in its allowed range an ABORT in BUSY leaves CURSOR (R188, M6). -/
opaque Config.freeAbortCursor : Nat → Nat

/-- A byte read from an IN address the host wrote during the session (R76, M7). -/
opaque Config.freeInByte : Nat → Byte

/-- Contents of SCR where the spec leaves them unspecified (R49, R188, R222, M4). -/
opaque Config.freeScratch : Nat → List (Nat × Byte)

/-- Contents of ACC where the spec leaves them unspecified (R188, M5). -/
opaque Config.freeAccumulator : Nat → List (Nat × AccCell)

end Sys2Proof
end

