-- ==== Sys2Proof/Syntax.lean ====
section
/-! DEFINITION. The instruction set: one constructor per row of spec/opcode_table.json. -/

namespace Sys2Proof

/-- The control-byte language and the command set (R2). The data bytes of LIT and REP are not
part of the instruction: they are read from IN as it runs (R102, R103), after the overflow check. -/
inductive Instr where
  /-- LIT, control byte 0NNNNNNN: copy the next N + 1 bytes (R102). -/
  | lit (n : BitVec 7)
  /-- NOP, control byte 10000000 (R104). -/
  | nop
  /-- REP, control byte 1NNNNNNN with N ≠ 0: repeat the next byte 129 − N times (R103). -/
  | rep (n : BitVec 7)
  /-- COPY, the mode S.COMP = 0: S.TARGET raw bytes (R105). -/
  | copy
  /-- START, CTRL write with bit 0 set and bit 2 clear (R181). -/
  | start
  /-- STEP, CTRL write with bits 2:0 = 010 (R183, R185–R187). -/
  | step
  /-- ABORT, CTRL write with bit 2 set (R188). -/
  | abort
  deriving DecidableEq, Repr

end Sys2Proof
end

