-- ==== Sys2Proof/WellFormed.lean ====
section
/-! DEFINITION. Which terms of Instr stand for an encoding of the spec. -/

namespace Sys2Proof

/-- The one check: a REP's low bits are not 0, because that control byte is NOP (R80, R103). -/
def Instr.wf : Instr → Bool
  | .lit _ => true
  | .nop => true
  | .rep n => n != 0
  | .copy => true
  | .start => true
  | .step => true
  | .abort => true

end Sys2Proof
end

