-- ==== Sys2Proof/Decode.lean ====
section
/-! DEFINITION. Decoding and encoding (30_encoding.md R80–R88), the register offsets
(10_state.md R25) and the assembler notation. -/

namespace Sys2Proof

/-! ### Control bytes -/

/-- R80: the control byte alone selects the form. NOP is tested before REP. -/
def decodeControl (b : Byte) : Instr :=
  if b.getLsbD 7 = false then .lit (b.setWidth 7)
  else if b = 0x80 then .nop
  else .rep (b.setWidth 7)

/-- R80 read through the signed value c = sext_8(b) (R10), as the source words it. -/
def decodeControlSigned (b : Byte) : Instr :=
  if 0 ≤ b.toInt then .lit (b.setWidth 7)
  else if b.toInt = -128 then .nop
  else .rep (b.setWidth 7)

/-- How many operand bytes follow the control byte in the stream (R81). -/
def operandBytes : Instr → Nat
  | .lit n => n.toNat + 1
  | .nop => 0
  | .rep _ => 1
  | .copy => 0
  | .start => 0
  | .step => 0
  | .abort => 0

/-- Why bytes are no whole instruction of the stream. -/
inductive DecodeError where
  /-- There is no control byte. Safe: nothing is decoded. -/
  | noControlByte
  /-- The operand bytes R81 asks for are not all there. Safe: nothing is decoded. -/
  | truncatedOperands
  deriving DecidableEq, Repr

/-- Disassembly of one instruction (R86): the instruction, its operand bytes and the rest. -/
def decodeStream : List Byte → Except DecodeError (Instr × List Byte × List Byte)
  | [] => .error .noControlByte
  | b :: rest =>
    if rest.length < operandBytes (decodeControl b) then .error .truncatedOperands
    else .ok (decodeControl b, rest.take (operandBytes (decodeControl b)),
      rest.drop (operandBytes (decodeControl b)))

/-! ### Command words -/

/-- R85: the rows in order, the first match wins; `none` is the table's row "none". -/
def decodeCommand (w : Word) : Option Instr :=
  if w &&& 0x00000004 = 0x00000004 then some .abort
  else if w &&& 0x00000005 = 0x00000001 then some .start
  else if w &&& 0x00000007 = 0x00000002 then some .step
  else none

/-! ### The three encoding spaces together -/

/-- Where an instruction's bits stand: a control byte in IN, the latched S.COMP, a CTRL write. -/
inductive Encoded where
  | control (b : Byte)
  | mode (comp : Byte)
  | command (w : Word)
  deriving DecidableEq, Repr

/-- The decoder over all three spaces (R80, R84, R85). S.COMP ≠ 0 is no instruction of its own. -/
def decodeEncoded : Encoded → Option Instr
  | .control b => some (decodeControl b)
  | .mode c => if c = 0 then some .copy else none
  | .command w => decodeCommand w

/-- The encoder (R80, R82, R84, R85; R86 for REP's `257 − n`). -/
def encode : Instr → Encoded
  | .lit n => .control (n.setWidth 8)
  | .nop => .control 0x80
  | .rep n => .control (0x80 ||| n.setWidth 8)
  | .copy => .mode 0
  | .start => .command 0x1
  | .step => .command 0x2
  | .abort => .command 0x4

/-- An instruction of the stream with its operand bytes directly after it (R81). COPY has only its
raw bytes; a command has no place in the stream. -/
def encodeStream (i : Instr) (operands : List Byte) : List Byte :=
  match encode i with
  | .control b => b :: operands
  | .mode _ => operands
  | .command _ => []

/-- Byte k of a word numbered as spec/opcode_table.json numbers it: bits 8k+7 .. 8k. -/
def tableByte (w k : Nat) : Byte := BitVec.ofNat 8 (w / 2 ^ (8 * k))

/-- The instruction's bytes from its table word: nbits of them, then operand bytes of 0, as
many as the longest instruction has (R81: 128 after a LIT's control byte). -/
def tableStream (nbits w : Nat) : List Byte :=
  (List.range (nbits / 8)).map (tableByte (w % 2 ^ nbits)) ++ List.replicate 128 0

/-- The table's words through the decoder. A row of 32 bits is a CTRL write; COPY has no
bits at all, and is the mode S.COMP = 0; any other row is a stretch of the control stream. -/
def decodeTableWord (nbits w : Nat) : Option Instr :=
  if nbits = 32 then decodeEncoded (.command (BitVec.ofNat 32 w))
  else if nbits = 0 then decodeEncoded (.mode 0)
  else
    match decodeStream (tableStream nbits w) with
    | .ok (i, _, _) => some i
    | .error _ => none

/-! ### The register window -/

/-- The registers of R25. -/
inductive Reg where
  | ctrl | status | errCode | errOffset | errExpected | errFound
  | width | height | planes | masking | compression | tcolor
  | payloadBase | payloadLen | palCount
  | stride | row | cursor | target
  | palette (i : BitVec 8)
  deriving DecidableEq, Repr

/-- R25's offsets. -/
def Reg.offset : Reg → Nat
  | .ctrl => 0x000
  | .status => 0x004
  | .errCode => 0x008
  | .errOffset => 0x00C
  | .errExpected => 0x010
  | .errFound => 0x014
  | .width => 0x020
  | .height => 0x024
  | .planes => 0x028
  | .masking => 0x02C
  | .compression => 0x030
  | .tcolor => 0x034
  | .payloadBase => 0x038
  | .payloadLen => 0x03C
  | .palCount => 0x040
  | .stride => 0x050
  | .row => 0x054
  | .cursor => 0x058
  | .target => 0x05C
  | .palette i => 0x400 + 4 * i.toNat

/-- The register at an offset; `none` is an unmapped offset (R45). The palette is the upper
half of the window, one word an entry (R25, R44). -/
def decodeReg (off : Nat) : Option Reg :=
  if 0x400 ≤ off then
    if off < 0x800 ∧ off % 4 = 0 then some (.palette (BitVec.ofNat 8 ((off - 0x400) / 4))) else none
  else
    [Reg.ctrl, .status, .errCode, .errOffset, .errExpected, .errFound, .width, .height, .planes,
      .masking, .compression, .tcolor, .payloadBase, .payloadLen, .palCount, .stride, .row,
      .cursor, .target].find? (fun r => r.offset == off)

/-! ### Assembler (R86, R87) -/

/-- A line of a control stream (R86) or a pseudo-instruction (R87). -/
inductive AsmLine where
  | lit (bs : List Byte)
  | rep (n : Nat) (b : Byte)
  | nop
  | raw (bs : List Byte)
  | fill (n : Nat) (b : Byte)
  | copy (bs : List Byte)
  deriving DecidableEq, Repr

/-- `LIT b1, ..., bn` for 1 ≤ n ≤ 128: `(n − 1), b1, ..., bn` (R86). -/
def asmLit (bs : List Byte) : List Byte := BitVec.ofNat 8 (bs.length - 1) :: bs

/-- `REP n, b` for 2 ≤ n ≤ 128: `(257 − n), b` (R86). -/
def asmRep (n : Nat) (b : Byte) : List Byte := [BitVec.ofNat 8 (257 - n), b]

/-- `FILL n, b`: floor(n/128) copies of `REP 128, b`, then the remainder (R87). -/
def asmFill (n : Nat) (b : Byte) : List Byte :=
  (List.replicate (n / 128) (asmRep 128 b)).flatten ++
    (if 2 ≤ n % 128 then asmRep (n % 128) b else if n % 128 = 1 then asmLit [b] else [])

/-- `COPY` of `blocks` runs of 128 bytes, then one LIT of what remains (R87). -/
def asmCopyBlocks : Nat → List Byte → List Byte
  | 0, bs => if bs = [] then [] else asmLit bs
  | blocks + 1, bs => asmLit (bs.take 128) ++ asmCopyBlocks blocks (bs.drop 128)

/-- `COPY b1, ..., bk` (R87). -/
def asmCopy (bs : List Byte) : List Byte := asmCopyBlocks (bs.length / 128) bs

/-- The assembler (R86): `none` where it refuses the line. -/
def assemble : AsmLine → Option (List Byte)
  | .lit bs => if 1 ≤ bs.length ∧ bs.length ≤ 128 then some (asmLit bs) else none
  | .rep n b => if 2 ≤ n ∧ n ≤ 128 then some (asmRep n b) else none
  | .nop => some [0x80]
  | .raw bs => some bs
  | .fill n b => if 1 ≤ n then some (asmFill n b) else none
  | .copy bs => if 1 ≤ bs.length then some (asmCopy bs) else none

end Sys2Proof
end

