-- ==== Sys2Proof/Machine/State.lean ====
section
/-! DEFINITION. The machine's state as plain data (10_state.md), the reasons a step stops, and
the state after reset (R53). -/

namespace Sys2Proof.Machine

/-- Bytes by address: IN, SCR, RB. An address that is not listed reads 0. -/
abbrev Memory := List Host.Cell

/-- STATUS.STATE (R24). -/
inductive SessState where
  | idle | ready | busy | done | error
  deriving DecidableEq, Repr

/-- The hidden phase of an in-flight STEP (R52). -/
inductive Phase where
  /-- No STEP is in flight. -/
  | idle
  /-- A STEP was accepted; its row step is enabled and has not begun (R183). A row that needs a stalled
  sink waits here (R72, R197, log 25). -/
  | enabled
  | decompress
  | deinterleave
  | resolve
  /-- The row is complete and waits for the sink (R166, R197). -/
  | handoff
  deriving DecidableEq, Repr

/-- The configuration registers (R32–R40). -/
structure Cfg where
  width : Half
  height : Half
  planes : Byte
  masking : Byte
  compression : Byte
  tcolor : Half
  payloadBase : Word
  payloadLen : Word
  palCount : Word
  deriving DecidableEq, Repr

/-- The session latches S.* (R46). TARGET shows `target` (R43). -/
structure Latch where
  width : Half
  height : Half
  planes : Byte
  mask : Byte
  comp : Byte
  tcolor : Half
  base : Word
  len : Word
  palCount : Word
  stride : Half
  eff : Half
  target : Word
  deriving DecidableEq, Repr

/-- The error record (R28–R31). -/
structure ErrRecord where
  code : Word
  offset : Word
  expected : Word
  found : Word
  deriving DecidableEq, Repr

/-- One transfer to the pixel sink: RowOut(y, bytes) (R73, R166). -/
structure RowOut where
  y : Half
  bytes : List Byte
  deriving DecidableEq, Repr

/-- The width of a host access to the register window (R67). -/
inductive AccessWidth where
  | bits8 | bits16 | bits32 | bits64
  deriving DecidableEq, Repr

/-- What the outside can do to the block: the lines of a host program (R88), the sink's
readiness (R197) and reset (R250). A bus address has 32 bits (DESIGN CHOICE, log 24). -/
inductive Input where
  /-- A register write: `WR NAME, v`, and CMD as a write to CTRL. -/
  | write (addr : Word) (width : AccessWidth) (value : Word)
  /-- A register read: `RD NAME`. -/
  | read (addr : Word) (width : AccessWidth)
  /-- `POLL`: read STATUS repeatedly until STATE ≠ BUSY. -/
  | poll
  /-- The host makes no access for a while: an enabled row step is taken (R260). -/
  | pause
  /-- `IN[a .. a+k−1] = b0, ..., b(k−1)`: the host fills its buffer. -/
  | fill (a : Nat) (bytes : List Byte)
  /-- From here on the pixel sink accepts rows, or stalls. -/
  | sink (accepts : Bool)
  /-- The platform asserts reset. -/
  | reset
  deriving DecidableEq, Repr

/-- Why the machine stops with a fault. -/
inductive Fault where
  /-- Raised by the resolver and by a host read of PALETTE[i] for an entry not written since reset
  (R53, D33, M3). Safe: nothing is proved past it. -/
  | paletteUnwritten
  /-- Raised by an access to IN at or above IN_LEN, an address that does not exist (R60), by
  MemRead or by the host's fill. Safe: nothing is proved past it. -/
  | inOutOfRange
  deriving DecidableEq, Repr

/-- Why the model gives no meaning. -/
inductive Refusal where
  /-- Raised by exec for an instruction that has no meaning yet. Safe. -/
  | notModelled (mnemonic : String)
  /-- Raised by a host access that is not 32 bits wide or not aligned: unspecified (R67, M1). Safe. -/
  | accessShape
  /-- Raised by a host access outside the 2 KiB window, which is another device's (R60). Safe. -/
  | outsideWindow
  deriving DecidableEq, Repr

/-- The state of one block, with the host's side of its ports. -/
structure State where
  /-- The parameters of R7; no step changes them. -/
  params : Params
  /-- STATUS.STATE (R24). -/
  state : SessState
  /-- STATUS.ROW_VALID (R23). -/
  rowValid : Bool
  /-- ERR_CODE, ERR_OFFSET, ERR_EXPECTED, ERR_FOUND (R28–R31). -/
  err : ErrRecord
  /-- The configuration registers (R32–R40). -/
  cfg : Cfg
  /-- The session latches (R46). -/
  latch : Latch
  /-- ROW (R42). -/
  row : Half
  /-- CURSOR (R21). -/
  cursor : Word
  /-- PAL (R48). -/
  pal : Cells 24
  /-- 1 for each palette entry written since reset (R53, M3). -/
  palWritten : Cells 1
  /-- SCR (R49). -/
  scr : Memory
  /-- ACC (R50). -/
  acc : Cells 9
  /-- RB (R51). -/
  rb : Memory
  /-- OUTCNT (R52). -/
  outcnt : Nat
  /-- The phase of an in-flight STEP (R52). -/
  phase : Phase
  /-- ctrl_off, where the current control byte was read (R101). -/
  ctrlOff : Word
  /-- CURSOR when the STEP in flight was accepted (R188). -/
  stepCursor : Word
  /-- IN (R60). -/
  inp : Memory
  /-- 1 for each IN address of the payload window the host wrote during the session (R76). -/
  touched : Cells 1
  /-- The RowOut events, newest first (R73). -/
  out : List RowOut
  /-- Does the pixel sink accept a row now (R197). -/
  sinkReady : Bool
  /-- The pending inputs, in their order (R72). -/
  inputs : List Input
  /-- What the host's reads returned, newest first (R88). -/
  reads : List Word
  /-- How many free values were drawn: the model's own counter. -/
  draws : Nat
  deriving DecidableEq, Repr

/-- R53 and R250: the machine right after reset. The values R53 leaves unspecified are 0 or
empty (DESIGN CHOICE, logs 5–7); nothing is pending and the sink accepts (logs 2, 13). -/
def State.reset : State :=
  { params := Params.thisHardware
    state := .idle
    rowValid := false
    err := { code := 0, offset := 0, expected := 0, found := 0 }
    cfg := { width := 0, height := 0, planes := 0, masking := 0, compression := 0, tcolor := 0,
             payloadBase := 0, payloadLen := 0, palCount := 0 }
    latch := { width := 0, height := 0, planes := 0, mask := 0, comp := 0, tcolor := 0, base := 0,
               len := 0, palCount := 0, stride := 0, eff := 0, target := 0 }
    row := 0
    cursor := 0
    pal := []
    palWritten := []
    scr := []
    acc := []
    rb := []
    outcnt := 0
    phase := .idle
    ctrlOff := 0
    stepCursor := 0
    inp := []
    touched := []
    out := []
    sinkReady := true
    inputs := []
    reads := []
    draws := 0 }

end Sys2Proof.Machine
end

