-- ==== Sys2Proof/Machine/Flags.lean ====
section
/-! DEFINITION. STATUS and the error codes. The block has no arithmetic condition codes (R22):
its flags are STATE and ROW_VALID, which only commands, the row step and error entry write. -/

namespace Sys2Proof.Machine

/-- The value of STATE in STATUS bits 2:0 (R24). -/
def stateCode : SessState → Word
  | .idle => 0
  | .ready => 1
  | .busy => 2
  | .done => 3
  | .error => 4

/-- STATUS: STATE in 2:0, ROW_VALID in bit 3, 31:4 read 0 (R27). -/
def statusWord (st : SessState) (rowValid : Bool) : Word :=
  stateCode st ||| (if rowValid then 8 else 0)

/-- The errors of R221. -/
inductive ErrCode where
  | ordering | badPlanes | unsupportedCompression | unsupportedMasking | unrecognizedMasking
  | widthTooLarge | paletteTooSmall | window | overrun | runOverflow
  deriving DecidableEq, Repr

/-- ERR_CODE.CODE (R221). -/
def codeOf : ErrCode → Word
  | .ordering => 1
  | .badPlanes => 2
  | .unsupportedCompression => 3
  | .unsupportedMasking => 4
  | .unrecognizedMasking => 5
  | .widthTooLarge => 6
  | .paletteTooSmall => 7
  | .window => 8
  | .overrun => 9
  | .runOverflow => 10

/-- ERR_CODE.KIND: 1 MalformedContainer, 2 UnsupportedFeature, 3 OrderingViolation,
4 PaletteTooSmall (R28, R221). -/
def kindOf : ErrCode → Word
  | .ordering => 3
  | .badPlanes => 2
  | .unsupportedCompression => 2
  | .unsupportedMasking => 2
  | .unrecognizedMasking => 2
  | .widthTooLarge => 2
  | .paletteTooSmall => 4
  | .window => 1
  | .overrun => 1
  | .runOverflow => 1

/-- ERR_CODE ← CODE | (KIND << 8) (R222). -/
def errWord (c : ErrCode) : Word := codeOf c ||| (kindOf c <<< 8)

end Sys2Proof.Machine
end

