-- ==== Sys2Proof/Machine/Operands.lean ====
section
/-! DEFINITION. Operand forms: the counts a control byte encodes (30_encoding.md R82) and the
sizes START derives from the configuration (10_state.md R41, R46, R49). -/

namespace Sys2Proof.Machine

/-- LIT's count n = c + 1 with c = N, 1..128 (R82, R102). -/
def litCount (n : BitVec 7) : Nat := n.toNat + 1

/-- REP's count n = 1 − c = 257 − b with b = 128 + N, 2..128 for N ≠ 0 (R82, R103). -/
def repCount (n : BitVec 7) : Nat := 129 - n.toNat

/-- ((WIDTH + 15) >> 4) << 1 (R41). -/
def strideOf (width : Half) : Half := BitVec.ofNat 16 ((width.toNat + 15) / 16 * 2)

/-- PLANES + 1 with an extra mask plane, else PLANES (R46). -/
def effOf (planes mask : Byte) : Half :=
  if mask = 1 then planes.setWidth 16 + 1 else planes.setWidth 16

/-- STRIDE × S.EFF (R46). -/
def targetOf (stride eff : Half) : Word := stride.setWidth 32 * eff.setWidth 32

/-- SCR's capacity in bytes: the stride of MAX_WIDTH times 9 (R49). -/
def scrCapacity (p : Params) : Nat := (strideOf p.maxWidth).toNat * 9

/-- The bits of an accumulator cell that exist (R7, R10, R50). -/
def accMask (w : AccWidth) : AccCell :=
  match w with
  | .eight => 0x0FF
  | .nine => 0x1FF

/-- The red component of a palette entry (R44). -/
def redOf (c : Rgb) : Byte := c.extractLsb' 16 8

/-- The green component (R44). -/
def greenOf (c : Rgb) : Byte := c.extractLsb' 8 8

/-- The blue component (R44). -/
def blueOf (c : Rgb) : Byte := c.extractLsb' 0 8

end Sys2Proof.Machine
end

