-- ==== Sys2Proof/Machine/Ops.lean ====
section
/-! DEFINITION. The shared operations: storage by index, the read of IN (R100), free contents,
error entry (R222) and reset (R250). -/

namespace Sys2Proof.Machine

/-! ### Storage -/

/-- The canonical form of a list of cells: indexes strictly rising, no listed value 0. -/
abbrev Cells.wf {w : Nat} (m : Cells w) : Prop :=
  m.Pairwise (fun a b => a.1 < b.1) ∧ ∀ c ∈ m, c.2 ≠ 0

/-- The canonical form of a memory. -/
abbrev Memory.wf (m : Memory) : Prop := Cells.wf (w := 8) m

/-- What an unlisted cell reads as (log 4 for IN, log 7 for the buffers). -/
def unlisted (w : Nat) : BitVec w := 0

/-- The value at an index. -/
def Cells.get {w : Nat} : Cells w → Nat → BitVec w
  | [], _ => unlisted w
  | c :: rest, a => if c.1 = a then c.2 else Cells.get rest a

/-- Put a cell at its place in the order. -/
def Cells.insert {w : Nat} : Cells w → Nat → BitVec w → Cells w
  | [], a, v => [(a, v)]
  | c :: rest, a, v => if a < c.1 then (a, v) :: c :: rest else c :: Cells.insert rest a v

/-- Store a value at an index, keeping the canonical form. -/
def Cells.set {w : Nat} (m : Cells w) (a : Nat) (v : BitVec w) : Cells w :=
  if v = unlisted w then m.filter (fun c => c.1 != a)
  else Cells.insert (m.filter (fun c => c.1 != a)) a v

/-- Store consecutive values from an index on. -/
def Cells.setRange {w : Nat} : Cells w → Nat → List (BitVec w) → Cells w
  | m, _, [] => m
  | m, a, v :: vs => Cells.setRange (Cells.set m a v) (a + 1) vs

/-- Keep the cells below `lo`; give those from `lo` up to `hi` the free contents. -/
def Cells.freeFrom {w : Nat} (lo hi : Nat) (m : Cells w) (free : List (Nat × BitVec w)) : Cells w :=
  free.foldl (fun m c => if lo ≤ c.1 ∧ c.1 < hi then Cells.set m c.1 c.2 else m)
    (m.filter (fun c => c.1 < lo))

/-! ### Transitions that may end early -/

/-- An operation's result: it goes on with a value and a state, or the whole transition ends
here with an outcome (an error entry, which is a next state, or a model fault). -/
inductive Flow (α : Type) where
  | ok (a : α) (s : State)
  | stop (o : Host.Outcome State Fault Refusal)

/-- The transition's outcome once an operation is done. -/
def Flow.outcome {α : Type} : Flow α → Host.Outcome State Fault Refusal
  | .ok _ s => .next s
  | .stop o => o

/-! ### Unspecified contents -/

/-- SCR with the bytes below `keep` as they are and every other byte unspecified (R49, M4). -/
def freeScr (keep : Nat) (s : State) : Memory :=
  Cells.freeFrom (w := 8) keep (scrCapacity s.params) s.scr (Config.freeScratch s.draws)

/-- ACC with every cell unspecified, within its columns and its width (R50, R188, M5). -/
def freeAcc (s : State) : Cells 9 :=
  Cells.freeFrom 0 s.params.maxWidth.toNat []
    ((Config.freeAccumulator s.draws).map (fun c => (c.1, c.2 &&& accMask s.params.accWidth)))

/-! ### Error entry -/

/-- R222, the block's one exception entry: the record, ROW_VALID 0, STATE ERROR, no row step in
flight, ACC 0 in every cell. SCR is unspecified, but for the bytes this row already copied, which
stay (R102, log 8). There is no handler and no return: START, ABORT and reset leave ERROR (R225). -/
def raiseError (c : ErrCode) (offset expected found : Word) (s : State) : State :=
  { s with
    err := { code := errWord c, offset := offset, expected := expected, found := found }
    rowValid := false
    state := .error
    phase := .idle
    scr := freeScr (if s.state = .busy then s.outcnt else 0) s
    acc := []
    draws := s.draws + 1 }

/-! ### Reading the payload -/

/-- Is the session open, so that the host must leave the payload window alone (R76)? -/
def sessionOpen (s : State) : Bool := s.state = .ready || s.state = .busy

/-- The IN address of the next payload byte, S.BASE + CURSOR, in exact arithmetic (R21, R62). -/
def payloadAddr (s : State) : Nat := s.latch.base.toNat + s.cursor.toNat

/-- The byte at S.BASE + CURSOR was consumed (R21, R100); a free draw was taken for it or not. -/
def advance (drew : Bool) (s : State) : State :=
  { s with cursor := s.cursor + 1, draws := if drew then s.draws + 1 else s.draws }

/-- R100, the only read of IN: bounded by S.LEN, one byte, CURSOR + 1. A byte the host changed
during the session is a free value (R76, M7). -/
def readIn (s : State) : Flow Byte :=
  if s.latch.len ≤ s.cursor then
    .stop (.next (raiseError .overrun s.cursor s.latch.target (BitVec.ofNat 32 s.outcnt) s))
  else if s.params.inLen.toNat ≤ payloadAddr s then
    .stop (.fault .inOutOfRange)
  else if Cells.get s.touched (payloadAddr s) = 1 then
    .ok (Config.freeInByte s.draws) (advance true s)
  else
    .ok (Cells.get s.inp (payloadAddr s)) (advance false s)

/-- SCR[OUTCNT] ← v; OUTCNT ← OUTCNT + 1 (R102, R103, R105). -/
def scrPush (v : Byte) (s : State) : State :=
  { s with scr := Cells.set s.scr s.outcnt v, outcnt := s.outcnt + 1 }

/-! ### Reset -/

/-- R250, R53: every register at its reset value, the row step cancelled. The parameters, IN, the
sink, the pending inputs and what has left the block are outside it and stay. -/
def resetBlock (s : State) : State :=
  { State.reset with
    params := s.params
    inp := s.inp
    out := s.out
    sinkReady := s.sinkReady
    inputs := s.inputs
    reads := s.reads
    draws := s.draws }

end Sys2Proof.Machine
end

