-- ==== Sys2Proof/Machine/Resolve.lean ====
section
/-! DEFINITION. The scanline resolver and the row handoff, the last stages of a row step
(42_resolve.md). -/

namespace Sys2Proof.Machine

/-- RESOLVE-NONE: every index is opaque (R160). -/
def resolveNone (raw : AccCell) : Option AccCell := some raw

/-- RESOLVE-MASK: transparent when only the mask plane's bit is set, else that bit is removed
(R161). -/
def resolveMask (planes : Byte) (raw : AccCell) : Option AccCell :=
  if raw.toNat = 2 ^ planes.toNat then none
  else some (raw &&& ~~~(1#9 <<< planes.toNat))

/-- RESOLVE-KEY: transparent when the index equals S.TCOLOR, compared at 16 bits (R162). -/
def resolveKey (tcolor : Half) (raw : AccCell) : Option AccCell :=
  if raw.setWidth 16 = tcolor then none else some raw

/-- The palette index of a raw index, `none` for a transparent pixel; S.MASK chooses the scheme
(R160–R162). A session has S.MASK ≤ 2 (R182); any other value falls to the source's "Else" (log 21). -/
def resolveIndex (l : Latch) (raw : AccCell) : Option AccCell :=
  if l.mask = 1 then resolveMask l.planes raw
  else if l.mask = 2 then resolveKey l.tcolor raw
  else resolveNone raw

/-- PAL[i] for the resolver and the host; `none` for an entry not written since reset (M3). -/
def palRead (s : State) (i : Nat) : Option Rgb :=
  if Cells.get s.palWritten i = 1 then some (Cells.get s.pal i) else none

/-- The four bytes of column x, R, G, B, A: the palette's colour and alpha 255, or all 0 where the pixel
is transparent (R163); `none` where the palette entry was not written. -/
def columnPixel (s : State) (x : Nat) : Option (List Byte) :=
  match resolveIndex s.latch (Cells.get s.acc x) with
  | none => some [0, 0, 0, 0]
  | some idx => (palRead s idx.toNat).map (fun c => [redOf c, greenOf c, blueOf c, 0xFF])

/-- RB[4x ..] ← the pixel's bytes (R163). -/
def writePixel (x : Nat) (px : List Byte) (s : State) : State :=
  { s with rb := Cells.setRange (w := 8) s.rb (4 * x) px }

/-- ACC[x] ← 0 (R164). -/
def clearCell (x : Nat) (s : State) : State := { s with acc := Cells.set s.acc x 0 }

/-- One column: its index, its pixel, its cell cleared (R160–R164). -/
def resolveColumn (x : Nat) (s : State) : Flow Unit :=
  match columnPixel s x with
  | some px => .ok () (clearCell x (writePixel x px s))
  | none => .stop (.fault .paletteUnwritten)

/-- The columns of a list, in its order. -/
def resolveColumns : List Nat → State → Flow Unit
  | [], s => .ok () s
  | x :: xs, s =>
    match resolveColumn x s with
    | .ok _ s' => resolveColumns xs s'
    | .stop o => .stop o

/-- The row is complete: the handoff is next (R184). -/
def rowResolved (s : State) : State := { s with phase := .handoff }

/-- The stage: columns 0 .. S.WIDTH − 1 (R184). -/
def resolveRow (s : State) : Host.Outcome State Fault Refusal :=
  match resolveColumns (List.range s.latch.width.toNat) s with
  | .ok _ s' => .next (rowResolved s')
  | .stop o => o

/-- RB[0 .. 4·S.WIDTH − 1] (R51, R166). -/
def rowBytes (s : State) : List Byte :=
  (List.range (4 * s.latch.width.toNat)).map (Cells.get (w := 8) s.rb)

/-- R166 and the end of R184: RowOut(ROW, RB), ROW + 1, ROW_VALID 1, DONE after the last row. -/
def handoff (s : State) : State :=
  { s with
    out := { y := s.row, bytes := rowBytes s } :: s.out
    row := s.row + 1
    rowValid := true
    state := if s.row + 1 = s.latch.height then .done else .ready
    phase := .idle }

end Sys2Proof.Machine
end

