-- ==== Sys2Proof/Machine/Bus.lean ====
section
/-! DEFINITION. The host's side: the register window (10_state.md R25–R45), which registers a read
returns and what a write stores (R67, R68), and the host's fill of IN (R61, R76). A write to CTRL is
a command and is decoded in Agents.lean. -/

namespace Sys2Proof.Machine

/-- The window offset of an aligned 32-bit access, or why the access has no meaning (R25, R67). The
address has 32 bits (DESIGN CHOICE, log 24). -/
def windowOffset (p : Params) (addr : Word) (width : AccessWidth) : Except Refusal Nat :=
  if addr.toNat < p.regBase.toNat ∨ p.regBase.toNat + 2048 ≤ addr.toNat then .error .outsideWindow
  else if width ≠ .bits32 ∨ (addr.toNat - p.regBase.toNat) % 4 ≠ 0 then .error .accessShape
  else .ok (addr.toNat - p.regBase.toNat)

/-- A free value was drawn. -/
def drawn (s : State) : State := { s with draws := s.draws + 1 }

/-- What a read of a register returns (R26–R45, R68): no side effect but the draw of the value that
R55 leaves unspecified for ROW, CURSOR and ROW_VALID in BUSY. -/
def readReg (r : Reg) (s : State) : Flow Word :=
  match r with
  | .ctrl => .ok 0 s
  | .status =>
    if s.state = .busy then .ok (statusWord s.state (Config.freeRowValid s.draws)) (drawn s)
    else .ok (statusWord s.state s.rowValid) s
  | .errCode => .ok s.err.code s
  | .errOffset => .ok s.err.offset s
  | .errExpected => .ok s.err.expected s
  | .errFound => .ok s.err.found s
  | .width => .ok (s.cfg.width.setWidth 32) s
  | .height => .ok (s.cfg.height.setWidth 32) s
  | .planes => .ok (s.cfg.planes.setWidth 32) s
  | .masking => .ok (s.cfg.masking.setWidth 32) s
  | .compression => .ok (s.cfg.compression.setWidth 32) s
  | .tcolor => .ok (s.cfg.tcolor.setWidth 32) s
  | .payloadBase => .ok s.cfg.payloadBase s
  | .payloadLen => .ok s.cfg.payloadLen s
  | .palCount => .ok s.cfg.palCount s
  | .stride => .ok ((strideOf s.cfg.width).setWidth 32) s
  | .row =>
    if s.state = .busy then .ok ((Config.freeRow s.draws).setWidth 32) (drawn s)
    else .ok (s.row.setWidth 32) s
  | .cursor =>
    if s.state = .busy then .ok (Config.freeCursor s.draws) (drawn s)
    else .ok s.cursor s
  | .target => .ok s.latch.target s
  | .palette i =>
    match palRead s i.toNat with
    | some c => .ok (c.setWidth 32) s
    | none => .stop (.fault .paletteUnwritten)

/-- May the host write the palette now (R44, R189)? -/
def paletteOpen (s : State) : Bool := !sessionOpen s

/-- What a register write stores (R32–R45, R68). Reserved bits are dropped; a write to a read-only
register is ignored. CTRL stores nothing (R26). -/
def writeReg (r : Reg) (v : Word) (s : State) : State :=
  match r with
  | .ctrl => s
  | .status => s
  | .errCode => s
  | .errOffset => s
  | .errExpected => s
  | .errFound => s
  | .width => { s with cfg := { s.cfg with width := v.setWidth 16 } }
  | .height => { s with cfg := { s.cfg with height := v.setWidth 16 } }
  | .planes => { s with cfg := { s.cfg with planes := v.setWidth 8 } }
  | .masking => { s with cfg := { s.cfg with masking := v.setWidth 8 } }
  | .compression => { s with cfg := { s.cfg with compression := v.setWidth 8 } }
  | .tcolor => { s with cfg := { s.cfg with tcolor := v.setWidth 16 } }
  | .payloadBase => { s with cfg := { s.cfg with payloadBase := v } }
  | .payloadLen => { s with cfg := { s.cfg with payloadLen := v } }
  | .palCount => { s with cfg := { s.cfg with palCount := v } }
  | .stride => s
  | .row => s
  | .cursor => s
  | .target => s
  | .palette i =>
    if paletteOpen s then
      { s with pal := Cells.set s.pal i.toNat (v.setWidth 24)
               palWritten := Cells.set s.palWritten i.toNat 1 }
    else s

/-- The value a read returned reaches the host. -/
def deliver (v : Word) (s : State) : State := { s with reads := v :: s.reads }

/-- A register read: an unmapped offset returns 0 (R45). -/
def readAt (off : Nat) (s : State) : Host.Outcome State Fault Refusal :=
  match decodeReg off with
  | none => .next (deliver 0 s)
  | some r =>
    match readReg r s with
    | .ok v s' => .next (deliver v s')
    | .stop o => o

/-- Is an IN address inside the payload window of the open session (R76)? -/
def inPayloadWindow (s : State) (a : Nat) : Bool :=
  sessionOpen s && s.latch.base.toNat ≤ a && a < s.latch.base.toNat + s.latch.len.toNat

/-- The host stores one byte of IN; inside the window of an open session it breaks R76. -/
def pokeIn (a : Nat) (b : Byte) (s : State) : State :=
  { s with
    inp := Cells.set (w := 8) s.inp a b
    touched := if inPayloadWindow s a then Cells.set s.touched a 1 else s.touched }

/-- The host stores consecutive bytes of IN. -/
def pokeAll : Nat → List Byte → State → State
  | _, [], s => s
  | a, b :: bs, s => pokeAll (a + 1) bs (pokeIn a b s)

/-- `IN[a ..] = bytes` (R61, R88): only addresses below IN_LEN exist (R60). -/
def fillIn (a : Nat) (bytes : List Byte) (s : State) : Host.Outcome State Fault Refusal :=
  if a + bytes.length ≤ s.params.inLen.toNat then .next (pokeAll a bytes s)
  else .fault .inOutOfRange

end Sys2Proof.Machine
end

