-- ==== Sys2Proof/Machine/Deinterleave.lean ====
section
/-! DEFINITION. The bitplane deinterleaver, the second stage of a row step (41_deinterleave.md). -/

namespace Sys2Proof.Machine

/-- Pixel column x of plane p: bit 7 − (x mod 8) of SCR[p·S.STRIDE + x div 8] (R141). -/
def planeBit (s : State) (p x : Nat) : Bool :=
  (Cells.get (w := 8) s.scr (p * s.latch.stride.toNat + x / 8)).getLsbD (7 - x % 8)

/-- ACC[x] ← (ACC[x] | (1 << p)) mod 2^ACC_WIDTH where the plane's bit is set (R142). -/
def orPlaneBit (s : State) (p : Nat) (acc : Cells 9) (x : Nat) : Cells 9 :=
  if planeBit s p x then
    Cells.set acc x ((Cells.get acc x ||| (1#9 <<< p)) &&& accMask s.params.accWidth)
  else acc

/-- The inner loop: every column of plane p (R142). -/
def orPlane (s : State) (acc : Cells 9) (p : Nat) : Cells 9 :=
  (List.range s.latch.width.toNat).foldl (orPlaneBit s p) acc

/-- Deinterleave(): the planes in rising order, from SCR into ACC (R140, R142). -/
def deinterleaved (s : State) : Cells 9 :=
  (List.range s.latch.eff.toNat).foldl (orPlane s) s.acc

/-- The stage: ACC built, the resolve next (R184). -/
def deinterleave (s : State) : State :=
  { s with acc := deinterleaved s, phase := .resolve }

end Sys2Proof.Machine
end

