-- ==== Sys2Proof/Machine/Commands.lean ====
section
/-! DEFINITION. The commands START, STEP and ABORT (43_commands.md R180–R188). -/

namespace Sys2Proof.Machine

/-- S.* as START loads them (R46, R181). -/
def latchOf (c : Cfg) : Latch :=
  { width := c.width
    height := c.height
    planes := c.planes
    mask := c.masking
    comp := c.compression
    tcolor := c.tcolor
    base := c.payloadBase
    len := c.payloadLen
    palCount := c.palCount
    stride := strideOf c.width
    eff := effOf c.planes c.masking
    target := targetOf (strideOf c.width) (effOf c.planes c.masking) }

/-- R181 up to Validate: the registers and the record cleared, the latches loaded, ACC cleared. SCR is
unspecified between sessions (R49, R192): the new session begins with free contents. In DONE, which no
rule reads SCR in, the last row's bytes stay until then (DESIGN CHOICE, log 8). -/
def openSession (s : State) : State :=
  { s with
    row := 0
    cursor := 0
    rowValid := false
    err := { code := 0, offset := 0, expected := 0, found := 0 }
    latch := latchOf s.cfg
    scr := freeScr 0 s
    acc := []
    touched := []
    draws := s.draws + 1 }

/-- One error to raise: its code, offset, expected and found (R182). -/
structure Refused where
  code : ErrCode
  offset : Word
  expected : Word
  found : Word
  deriving DecidableEq, Repr

/-- Validate(): R182's seven checks in their order; the first that fails is the one raised. -/
def validate (p : Params) (l : Latch) : Option Refused :=
  if l.planes.toNat < 1 ∨ 8 < l.planes.toNat then
    some ⟨.badPlanes, 0, 8, l.planes.setWidth 32⟩
  else if 1 < l.comp.toNat then
    some ⟨.unsupportedCompression, 0, 1, l.comp.setWidth 32⟩
  else if l.mask = 3 then
    some ⟨.unsupportedMasking, 0, 2, 3⟩
  else if 3 < l.mask.toNat then
    some ⟨.unrecognizedMasking, 0, 2, l.mask.setWidth 32⟩
  else if p.maxWidth.toNat < l.width.toNat then
    some ⟨.widthTooLarge, 0, p.maxWidth.setWidth 32, l.width.setWidth 32⟩
  else if l.palCount.toNat < 2 ^ l.planes.toNat then
    some ⟨.paletteTooSmall, 0, BitVec.ofNat 32 (2 ^ l.planes.toNat), l.palCount⟩
  else if p.inLen.toNat < l.base.toNat + l.len.toNat then
    some ⟨.window, l.base, if l.base ≤ p.inLen then p.inLen - l.base else 0, l.len⟩
  else none

/-- R181's last line: STATE ← DONE for an image of no rows, else READY. -/
def sessionReady (s : State) : State :=
  { s with state := if s.latch.height = 0 then .done else .ready }

/-- START (R181, R182); dropped in BUSY (R187). -/
def execStart (s : State) : Host.Outcome State Fault Refusal :=
  if s.state = .busy then .next s
  else
    match validate s.params (latchOf s.cfg) with
    | some r => .next (raiseError r.code r.offset r.expected r.found (openSession s))
    | none => .next (sessionReady (openSession s))

/-- A STEP accepted in READY: ROW_VALID ← 0, STATE ← BUSY, the row step enabled (R183). -/
def acceptStep (s : State) : State :=
  { s with rowValid := false, state := .busy, phase := .enabled, stepCursor := s.cursor }

/-- STEP in each state (R180): ORDERING in IDLE (R186), accepted in READY (R183), no row in DONE
(R185), dropped in BUSY and ERROR (R187). -/
def execStep (s : State) : Host.Outcome State Fault Refusal :=
  match s.state with
  | .idle => .next (raiseError .ordering 0 1 0 s)
  | .ready => .next (acceptStep s)
  | .busy => .next s
  | .done => .next { s with rowValid := false }
  | .error => .next s

/-- CURSOR after an ABORT: unspecified in [its value at the STEP, S.LEN] where the state was BUSY,
else unchanged (R188, M6). -/
def abortCursor (s : State) : Word :=
  if s.state = .busy then
    BitVec.ofNat 32 (s.stepCursor.toNat +
      Config.freeAbortCursor s.draws % (s.latch.len.toNat - s.stepCursor.toNat + 1))
  else s.cursor

/-- R188: the session closed, the row step cancelled, SCR and ACC unspecified. -/
def closeSession (s : State) : State :=
  { s with
    rowValid := false
    state := .idle
    phase := .idle
    cursor := abortCursor s
    scr := freeScr 0 s
    acc := freeAcc s
    draws := s.draws + 1 }

/-- ABORT (R188). In IDLE it changes nothing but ROW_VALID. -/
def execAbort (s : State) : Host.Outcome State Fault Refusal :=
  if s.state = .idle then .next { s with rowValid := false } else .next (closeSession s)

end Sys2Proof.Machine
end

