-- ==== Sys2Proof/Machine/Rle.lean ====
section
/-! DEFINITION. The run-length decompressor (40_rle.md): LIT, REP, NOP and COPY. Each meaning starts
after the control byte was consumed, with its offset in ctrlOff (R101). -/

namespace Sys2Proof.Machine

/-- SCR[OUTCNT] ← ReadIn(), n times; a failing read ends it part-way (R102, R105). -/
def copyBytes : Nat → State → Flow Unit
  | 0, s => .ok () s
  | k + 1, s =>
    match readIn s with
    | .ok v s' => copyBytes k (scrPush v s')
    | .stop o => .stop o

/-- SCR[OUTCNT] ← v, n times (R103). -/
def repeatByte (v : Byte) : Nat → State → State
  | 0, s => s
  | k + 1, s => repeatByte v k (scrPush v s)

/-- Does a run of n bytes pass the row's target (R109)? -/
def overflows (n : Nat) (s : State) : Bool := s.latch.target.toNat < s.outcnt + n

/-- R102, R103: the error of a run that does not fit, raised before any operand is read. -/
def runOverflow (n : Nat) (s : State) : State :=
  raiseError .runOverflow s.ctrlOff (s.latch.target - BitVec.ofNat 32 s.outcnt) (BitVec.ofNat 32 n) s

/-- LIT (R102). -/
def execLit (n : BitVec 7) (s : State) : Host.Outcome State Fault Refusal :=
  if overflows (litCount n) s then .next (runOverflow (litCount n) s)
  else (copyBytes (litCount n) s).outcome

/-- REP (R103). -/
def execRep (n : BitVec 7) (s : State) : Host.Outcome State Fault Refusal :=
  if overflows (repCount n) s then .next (runOverflow (repCount n) s)
  else
    match readIn s with
    | .ok v s' => .next (repeatByte v (repCount n) s')
    | .stop o => o

/-- NOP: nothing beyond the control byte already consumed (R104). -/
def execNop (s : State) : Host.Outcome State Fault Refusal := .next s

/-- COPY: OUTCNT ← 0, then S.TARGET bytes (R105). -/
def execCopy (s : State) : Host.Outcome State Fault Refusal :=
  (copyBytes s.latch.target.toNat { s with outcnt := 0 }).outcome

end Sys2Proof.Machine
end

