-- ==== Sys2Proof/Machine/Dispatch.lean ====
section
/-! DEFINITION. The dispatch: one arm per instruction, each a call of its meaning. -/

namespace Sys2Proof.Machine

def exec (i : Instr) (s : State) : Host.Outcome State Fault Refusal :=
  match i with
  | .lit n => Sys2Proof.Machine.execLit n s
  | .nop => Sys2Proof.Machine.execNop s
  | .rep n => Sys2Proof.Machine.execRep n s
  | .copy => Sys2Proof.Machine.execCopy s
  | .start => Sys2Proof.Machine.execStart s
  | .step => Sys2Proof.Machine.execStep s
  | .abort => Sys2Proof.Machine.execAbort s

end Sys2Proof.Machine
end

