-- ==== Sys2Proof/Machine/Agents.lean ====
section
/-! DEFINITION. Who moves and how: the row step of the block (43_commands.md R184), the pending
inputs of the host, the sink and the platform (20_memory.md R72), and the fetch of an instruction. -/

namespace Sys2Proof.Machine

/-! ### The block: the row step -/

/-- The row step begins: OUTCNT ← 0, then the decompression (R101, R105, R184). -/
def beginRow (s : State) : State := { s with outcnt := 0, phase := .decompress }

/-- ctrl_off ← CURSOR (R101). -/
def markControl (s : State) : State := { s with ctrlOff := s.cursor }

/-- One iteration of R101's loop: the control byte read, decoded and run. -/
def fetchControl (s : State) : Host.Outcome State Fault Refusal :=
  match readIn (markControl s) with
  | .ok b s' => exec (decodeControl b) s'
  | .stop o => o

/-- The row is decompressed: the deinterleave is next (R184). -/
def rowDecompressed (s : State) : State := { s with phase := .deinterleave }

/-- The decompression phase: while OUTCNT < S.TARGET, one control instruction (R101), or the whole
copy when S.COMP = 0 (R84, R105, R184). -/
def decompressStep (s : State) : Host.Outcome State Fault Refusal :=
  if s.outcnt < s.latch.target.toNat then
    if s.latch.comp = 0 then exec .copy s else fetchControl s
  else .next (rowDecompressed s)

/-- Would the decompression under way fill the row within n iterations, neither raising an error nor
stopping? -/
def completes : Nat → State → Bool
  | 0, _ => false
  | n + 1, s =>
    match decompressStep s with
    | .next t => t.phase = .deinterleave || (t.phase = .decompress && completes n t)
    | .fault _ => false
    | .refused _ => false

/-- Would the enabled row step end in a row, and not in an error? Its decompression takes at most
S.LEN − CURSOR iterations (R106), and one more to see the row complete. -/
def yieldsRow (s : State) : Bool :=
  completes (s.latch.len.toNat - s.cursor.toNat + 1) (beginRow s)

/-- May the row step take place now? It is one transition, its reads, its RowOut and its end together
(R72), so a row waits for a sink that accepts it (R197) before any of its bytes is read: the host's writes
meanwhile come before all its reads (R76, R256), and each byte is read once (R62). An error needs no sink.
That the whole row step waits, and not its end alone, is a DESIGN CHOICE (log 25). -/
def mayBegin (s : State) : Bool := s.phase = .enabled && (s.sinkReady || !yieldsRow s)

/-! ### The outside -/

/-- The inputs after the first one. -/
def popInput (s : State) : State := { s with inputs := s.inputs.tail }

/-- A host write at an offset: CTRL is decoded as a command (R26, R85), any other register stores
(R68), an unmapped offset ignores it (R45). -/
def writeAt (off : Nat) (v : Word) (s : State) : Host.Outcome State Fault Refusal :=
  match decodeReg off with
  | none => .next s
  | some .ctrl =>
    match decodeCommand v with
    | some i => exec i s
    | none => .next s
  | some r => .next (writeReg r v s)

/-- The host waits for the block: a row step that may take place begins; otherwise nothing moves, as in
IDLE, READY, DONE and ERROR (R232) and while the sink stalls (R197). -/
def waitStep (s : State) : Host.Outcome State Fault Refusal :=
  if mayBegin s then .next (beginRow s) else .next s

/-- One input is taken. -/
def takeInput (i : Input) (s : State) : Host.Outcome State Fault Refusal :=
  match i with
  | .write addr width v =>
    match windowOffset s.params addr width with
    | .ok off => writeAt off v s
    | .error r => .refused r
  | .read addr width =>
    match windowOffset s.params addr width with
    | .ok off => readAt off s
    | .error r => .refused r
  | .poll => readAt Reg.status.offset s
  | .pause => .next s
  | .fill a bytes => fillIn a bytes s
  | .sink accepts => .next { s with sinkReady := accepts }
  | .reset => .next (resetBlock s)

/-- Does the host let the block move before this input is taken? A POLL stays pending while STATE is
BUSY (R88), a pause while a row step may begin (R260). -/
def letsBlockMove (i : Input) (s : State) : Bool :=
  match i with
  | .poll => s.state = .busy
  | .pause => mayBegin s
  | .write _ _ _ => false
  | .read _ _ => false
  | .fill _ _ => false
  | .sink _ => false
  | .reset => false

/-- The next input, in its order; with nothing pending the host waits. -/
def inputStep (s : State) : Host.Outcome State Fault Refusal :=
  match s.inputs with
  | [] => waitStep s
  | i :: _ => if letsBlockMove i s then waitStep s else takeInput i (popInput s)

/-! ### One step -/

/-- The machine's step: a row step that has begun runs to its end before any input is taken (R72). A
handoff whose sink does not accept would wait too (R197), but no run reaches one: the row waits before it
begins (mayBegin, ControlInvariantKept). -/
def machineStep (s : State) : Host.Outcome State Fault Refusal :=
  match s.phase with
  | .decompress => decompressStep s
  | .deinterleave => .next (deinterleave s)
  | .resolve => resolveRow s
  | .handoff => if s.sinkReady then .next (handoff s) else inputStep s
  | .enabled => inputStep s
  | .idle => inputStep s

/-! ### Placing one instruction -/

/-- Would the row step move before any input? -/
def rowStepRuns (s : State) : Bool :=
  match s.phase with
  | .decompress => true
  | .deinterleave => true
  | .resolve => true
  | .handoff => s.sinkReady
  | .enabled => false
  | .idle => false

/-- The latches of a session of one row of 128 bytes: WIDTH 128, 8 planes, no masking, a payload of
`len` bytes at IN address 0. -/
def placedLatch (comp : Byte) (len : Nat) : Latch :=
  { width := 128, height := 1, planes := 8, mask := 0, comp := comp, tcolor := 0, base := 0,
    len := BitVec.ofNat 32 len, palCount := 256, stride := 16, eff := 8, target := 128 }

/-- A row step under way over a payload placed at IN address 0, its first byte the next one read. -/
def placeStream (comp : Byte) (bytes : List Byte) (s : State) : State :=
  { s with
    params := { s.params with
      inLen := if s.params.inLen < BitVec.ofNat 32 bytes.length then BitVec.ofNat 32 bytes.length
               else s.params.inLen }
    inp := Cells.setRange (w := 8) s.inp 0 bytes
    touched := []
    latch := placedLatch comp bytes.length
    state := .busy
    phase := .decompress
    rowValid := false
    row := 0
    cursor := 0
    stepCursor := 0
    outcnt := 0
    acc := [] }

/-- A write of w to CTRL, the next input taken. -/
def placeCommand (w : Word) (s : State) : State :=
  { s with
    inputs := .write s.params.regBase .bits32 w :: s.inputs
    phase := if rowStepRuns s then .enabled else s.phase }

/-- The instruction of a table word, placed where the next step fetches it (log 22). -/
def placeWord (nbits w : Nat) (s : State) : State :=
  if nbits = 32 then placeCommand (BitVec.ofNat 32 w) s
  else if nbits = 0 then placeStream 0 (List.replicate 128 0) s
  else placeStream 1 (tableStream nbits w) s

end Sys2Proof.Machine
end

