-- ==== Sys2Proof/Safety.lean ====
section
/-! DEFINITION. What counts as a good state, in the terms the statements use: the invariants that
every step keeps, and the runs of a control stream (40_rle.md R111). -/

namespace Sys2Proof.Machine

/-- Every storage is in its canonical form. -/
def Canonical (s : State) : Prop :=
  Memory.wf s.inp ∧ Memory.wf s.scr ∧ Memory.wf s.rb ∧ Cells.wf s.acc ∧ Cells.wf s.pal ∧
    Cells.wf s.palWritten ∧ Cells.wf s.touched

/-- A session is open in the sense of R192: START accepted it, and it was not ended by an error, an
ABORT or a reset. -/
def inSession (s : State) : Bool :=
  s.state = .ready || s.state = .busy || s.state = .done

/-- The latches agree with R46's formulas. -/
def LatchDerived (l : Latch) : Prop :=
  l.stride = strideOf l.width ∧ l.eff = effOf l.planes l.mask ∧ l.target = targetOf l.stride l.eff

/-- OUTCNT's bound in each phase (R52, R101, R109). -/
def OutcntBounded (s : State) : Prop :=
  match s.phase with
  | .decompress => s.outcnt ≤ s.latch.target.toNat
  | .deinterleave => s.outcnt = s.latch.target.toNat
  | .resolve => s.outcnt = s.latch.target.toNat
  | .handoff => s.outcnt = s.latch.target.toNat
  | .enabled => True
  | .idle => True

/-- The control state is one the rules allow. -/
structure Controlled (s : State) : Prop where
  /-- A row step is in flight exactly in BUSY (R24, R183, R184). -/
  busyPhase : s.state = .busy ↔ s.phase ≠ .idle
  /-- CURSOR never exceeds S.LEN (R21). -/
  cursorBound : s.cursor ≤ s.latch.len
  /-- READY and BUSY owe a row: ROW < S.HEIGHT (R24, R183). -/
  rowOwed : s.state = .ready ∨ s.state = .busy → s.row < s.latch.height
  /-- DONE has produced them all: ROW = S.HEIGHT (R24). -/
  rowsDone : s.state = .done → s.row = s.latch.height
  /-- ROW_VALID is 1 only after a row step that left READY or DONE (R23). -/
  validAfterRow : s.rowValid = true → s.state = .ready ∨ s.state = .done
  /-- The checks of START hold for the latches of an open session (R182, R192). -/
  checked : inSession s = true → validate s.params s.latch = none
  /-- R46's formulas. -/
  derived : LatchDerived s.latch
  /-- OUTCNT's bound. -/
  outcntBound : OutcntBounded s
  /-- CURSOR only grows from an accepted STEP on (R21, R188). -/
  stepBound : s.state = .busy → s.stepCursor ≤ s.cursor
  /-- A decompression under way with a stalled sink ends in an error (R197, log 25). -/
  stalledFails : s.phase = .decompress → s.sinkReady = false → ∀ n, completes n s = false
  /-- Past the decompression the sink accepts (R72, R197, log 25). -/
  sinkHeld : s.phase = .deinterleave ∨ s.phase = .resolve ∨ s.phase = .handoff → s.sinkReady = true

/-- May ACC hold plane bits in this phase? Only between a deinterleave and its resolve (R145). -/
def AccClear (s : State) : Prop :=
  (inSession s = true → s.phase ≠ .resolve → ∀ x, Cells.get s.acc x = 0) ∧
    (s.phase = .resolve → ∀ x, s.latch.width.toNat ≤ x → Cells.get s.acc x = 0)

/-- R73: the session's RowOut events, newest first, are y = ROW − 1, ..., 0, and each holds
4 · S.WIDTH bytes. -/
def RowsInOrder (s : State) : Prop :=
  s.row.toNat ≤ s.out.length ∧
    ∀ k r, k < s.row.toNat → s.out[k]? = some r →
      r.y.toNat + k + 1 = s.row.toNat ∧ r.bytes.length = 4 * s.latch.width.toNat

/-- The palette entries a session may look up are written (R165, H4). -/
def PaletteLoaded (s : State) : Prop :=
  ∀ i, i < 2 ^ s.latch.planes.toNat → Cells.get s.palWritten i = 1

/-- The next n payload bytes exist: inside S.LEN (R100) and inside IN (R61). -/
def Readable (n : Nat) (s : State) : Prop :=
  s.cursor.toNat + n ≤ s.latch.len.toNat ∧ s.latch.base.toNat + s.latch.len.toNat ≤ s.params.inLen.toNat

/-- The next payload bytes are bs, none changed by the host during the session. -/
def PayloadIs (bs : List Byte) (s : State) : Prop :=
  Readable bs.length s ∧
    ∀ k b, bs[k]? = some b →
      Cells.get (w := 8) s.inp (payloadAddr s + k) = b ∧ Cells.get s.touched (payloadAddr s + k) = 0

/-! ### Shapes of a transition -/

/-- Error entry from s to t (R222): the record with CODE | KIND << 8, ROW_VALID 0, STATE ERROR, no row
step in flight, ACC 0 in every cell, SCR unspecified, and nothing else. -/
def ErrorEntered (code kind : Nat) (offset expected found : Word) (s t : State) : Prop :=
  t = { s with
    err := { code := BitVec.ofNat 32 (code + 256 * kind), offset := offset, expected := expected,
             found := found }
    rowValid := false
    state := .error
    phase := .idle
    scr := t.scr
    acc := []
    draws := t.draws }

/-- The latches START loads from the configuration, with R46's formulas over the integers. -/
def LatchedFrom (c : Cfg) (l : Latch) : Prop :=
  l.width = c.width ∧ l.height = c.height ∧ l.planes = c.planes ∧ l.mask = c.masking ∧
    l.comp = c.compression ∧ l.tcolor = c.tcolor ∧ l.base = c.payloadBase ∧ l.len = c.payloadLen ∧
    l.palCount = c.palCount ∧ l.stride.toNat = (c.width.toNat + 15) / 16 * 2 ∧
    l.eff.toNat = (if c.masking = 1 then c.planes.toNat + 1 else c.planes.toNat) ∧
    l.target.toNat = l.stride.toNat * l.eff.toNat

/-- A START whose check fails, from s to t (R181, R222): the session registers cleared, the latches
loaded, ACC 0, and the error entered. -/
def StartRefused (code kind : Nat) (offset expected found : Word) (s t : State) : Prop :=
  t = { s with
    row := 0
    cursor := 0
    rowValid := false
    err := { code := BitVec.ofNat 32 (code + 256 * kind), offset := offset, expected := expected,
             found := found }
    state := .error
    phase := .idle
    latch := t.latch
    acc := t.acc
    touched := t.touched
    scr := t.scr
    draws := t.draws } ∧
  LatchedFrom s.cfg t.latch ∧ ∀ x, Cells.get t.acc x = 0

/-- The bus address of a register (R25). -/
def regAddr (p : Params) (r : Reg) : Word := p.regBase + BitVec.ofNat 32 r.offset

/-- It is the host's turn and its next access writes v to register r (R67). -/
def Writes (r : Reg) (v : Word) (rest : List Input) (s : State) : Prop :=
  rowStepRuns s = false ∧ s.params.wf = true ∧ s.inputs = .write (regAddr s.params r) .bits32 v :: rest

/-- It is the host's turn and its next access reads register r (R67). -/
def Reads (r : Reg) (rest : List Input) (s : State) : Prop :=
  rowStepRuns s = false ∧ s.params.wf = true ∧ s.inputs = .read (regAddr s.params r) .bits32 :: rest

/-- It is the host's turn and its next access is a 32-bit write to CTRL whose value is command i
(R26, R67, R180). -/
def TakesCommand (i : Instr) (s : State) : Prop :=
  rowStepRuns s = false ∧
    ∃ v, s.inputs.head? = some (.write (regAddr s.params .ctrl) .bits32 v) ∧ decodeCommand v = some i

/-- It is the outside's turn and the platform asserts reset (R250). -/
def TakesReset (s : State) : Prop := rowStepRuns s = false ∧ s.inputs.head? = some .reset

/-- The pixel of column x in RB is the opaque colour of palette entry i (R163). -/
def OpaquePixel (s t : State) (x i : Nat) : Prop :=
  Cells.get (w := 8) t.rb (4 * x) = (Cells.get s.pal i).extractLsb' 16 8 ∧
    Cells.get (w := 8) t.rb (4 * x + 1) = (Cells.get s.pal i).extractLsb' 8 8 ∧
    Cells.get (w := 8) t.rb (4 * x + 2) = (Cells.get s.pal i).extractLsb' 0 8 ∧
    Cells.get (w := 8) t.rb (4 * x + 3) = 255

/-- The pixel of column x in RB is transparent: (0, 0, 0, 0) (R163). -/
def TransparentPixel (t : State) (x : Nat) : Prop :=
  ∀ k, k < 4 → Cells.get (w := 8) t.rb (4 * x + k) = 0

/-- k steps of the machine, ending early at a stop. -/
def steps : Nat → State → Host.Outcome State Fault Refusal
  | 0, s => .next s
  | k + 1, s =>
    match step s with
    | .next t => steps k t
    | .fault r => .fault r
    | .refused r => .refused r

/-! ### Runs of a control stream (R111) -/

/-- A LIT of 1..128 bytes, a REP of 2..128 occurrences or a NOP. -/
inductive Run where
  | lit (bs : List Byte)
  | rep (n : Nat) (b : Byte)
  | nop
  deriving DecidableEq, Repr

/-- The bounds R111 gives. -/
def Run.wf : Run → Bool
  | .lit bs => 1 ≤ bs.length && bs.length ≤ 128
  | .rep n _ => 2 ≤ n && n ≤ 128
  | .nop => true

/-- The run's encoding (R86). -/
def Run.encoded : Run → List Byte
  | .lit bs => asmLit bs
  | .rep n b => asmRep n b
  | .nop => [0x80]

/-- The bytes the run stands for. -/
def Run.expanded : Run → List Byte
  | .lit bs => bs
  | .rep n b => List.replicate n b
  | .nop => []

/-- The encoding of a sequence of runs. -/
def encodeRuns (rs : List Run) : List Byte := (rs.map Run.encoded).flatten

/-- The bytes a sequence of runs stands for. -/
def expandRuns (rs : List Run) : List Byte := (rs.map Run.expanded).flatten

/-- The runs R87 gives for `FILL n, b`: floor(n/128) times `REP 128, b`, then `REP r, b` where the
remainder r is at least 2, `LIT b` where it is 1. -/
def fillRuns (n : Nat) (b : Byte) : List Run :=
  List.replicate (n / 128) (.rep 128 b) ++
    (if 2 ≤ n % 128 then [.rep (n % 128) b] else if n % 128 = 1 then [.lit [b]] else [])

/-- The outcome is a next state that satisfies p. -/
def nextHas (o : Host.Outcome State Fault Refusal) (p : State → Bool) : Bool :=
  match o with
  | .next t => p t
  | .fault _ => false
  | .refused _ => false

end Sys2Proof.Machine
end

