-- ==== Sys2Proof/Certificates/Slice0/Obligations.lean ====
section
/-! DEFINITION. The statements for the provers, from the spec's numbered rules. -/

open Sys2Proof Sys2Proof.Machine

/-! ### Encoding -/

/-- R80: the signed value of the control byte alone selects the form. -/
def Obligations.ControlByteSelectsForm : Prop :=
  ∀ b : Byte,
    (0 ≤ b.toInt → decodeControl b = .lit (b.setWidth 7)) ∧
    (b.toInt = -128 → decodeControl b = .nop) ∧
    (-128 < b.toInt → b.toInt < 0 → decodeControl b = .rep (b.setWidth 7))

/-- Every one of the 256 control bytes is a well-formed instruction, and encodes back to itself
(30_encoding.md R83). -/
def Obligations.EveryControlByteDefined : Prop :=
  ∀ b : Byte, (decodeControl b).wf = true ∧ encode (decodeControl b) = .control b

/-- R81: the operand bytes of each form, and that they follow the control byte directly, the next
instruction directly after them. -/
def Obligations.OperandsFollowControlByte : Prop :=
  ∀ (b : Byte) (operands rest : List Byte),
    (0 ≤ b.toInt → (operandBytes (decodeControl b) : Int) = b.toInt + 1) ∧
    (-128 < b.toInt → b.toInt < 0 → operandBytes (decodeControl b) = 1) ∧
    (b.toInt = -128 → operandBytes (decodeControl b) = 0) ∧
    (operands.length = operandBytes (decodeControl b) →
      decodeStream (b :: (operands ++ rest)) = .ok (decodeControl b, operands, rest))

/-- R82: the counts of LIT and REP from the control byte; NOP has no operand. -/
def Obligations.RunCountsFromControlByte : Prop :=
  ∀ (b : Byte) (n : BitVec 7),
    (decodeControl b = .lit n →
      (litCount n : Int) = b.toInt + 1 ∧ litCount n = b.toNat % 128 + 1 ∧ 1 ≤ litCount n ∧
        litCount n ≤ 128) ∧
    (decodeControl b = .rep n →
      (repCount n : Int) = 1 - b.toInt ∧ repCount n = 257 - b.toNat ∧ 2 ≤ repCount n ∧
        repCount n ≤ 128) ∧
    (decodeControl b = .nop → operandBytes (decodeControl b) = 0)

/-- R85: the command a CTRL write encodes, by its bits; bits 31:3 do not matter. -/
def Obligations.CommandWordSelectsCommand : Prop :=
  ∀ w : Word,
    (w.getLsbD 2 = true → decodeCommand w = some .abort) ∧
    (w.getLsbD 2 = false → w.getLsbD 0 = true → decodeCommand w = some .start) ∧
    (w.getLsbD 2 = false → w.getLsbD 0 = false → w.getLsbD 1 = true → decodeCommand w = some .step) ∧
    (w.getLsbD 2 = false → w.getLsbD 0 = false → w.getLsbD 1 = false → decodeCommand w = none)

/-- Decoding an encoded well-formed instruction gives it back, in its own encoding space; in the stream,
with its operand bytes at every value and whatever follows (30_encoding.md R80–R85). -/
def Obligations.DecodeInvertsEncode : Prop :=
  ∀ i : Instr, i.wf = true →
    decodeEncoded (encode i) = some i ∧
    ∀ b, encode i = .control b → ∀ operands rest : List Byte, operands.length = operandBytes i →
      decodeStream (encodeStream i operands ++ rest) = .ok (i, operands, rest)

/-- A few words written out from the encodings of 30_encoding.md R80 and R85. -/
def Obligations.HandwrittenWordsDecode : Prop :=
  decodeControl 0b00000010 = .lit 2 ∧ decodeControl 0b01111111 = .lit 127 ∧
    decodeControl 0b10000000 = .nop ∧ decodeControl 0b10000001 = .rep 1 ∧
    decodeControl 0b11111110 = .rep 126 ∧
    decodeCommand 0b001 = some .start ∧ decodeCommand 0b010 = some .step ∧
    decodeCommand 0b100 = some .abort ∧ decodeCommand 0b011 = some .start ∧
    decodeCommand 0b1000 = none

/-- R25's offsets, and that each register is found at its offset and at no other. -/
def Obligations.RegisterOffsetsAreExact : Prop :=
  [Reg.ctrl, .status, .errCode, .errOffset, .errExpected, .errFound, .width, .height, .planes,
      .masking, .compression, .tcolor, .payloadBase, .payloadLen, .palCount, .stride, .row, .cursor,
      .target].map Reg.offset =
    [0x000, 0x004, 0x008, 0x00C, 0x010, 0x014, 0x020, 0x024, 0x028, 0x02C, 0x030, 0x034, 0x038, 0x03C,
      0x040, 0x050, 0x054, 0x058, 0x05C] ∧
  (∀ i : BitVec 8, (Reg.palette i).offset = 0x400 + 4 * i.toNat) ∧
  ∀ (off : Nat) (r : Reg), decodeReg off = some r ↔ r.offset = off

/-- R86: the encoding of each line, the lines the assembler refuses, and that disassembly gives the line
back. -/
def Obligations.AssembledLinesDecode : Prop :=
  (∀ bs rest : List Byte, 1 ≤ bs.length → bs.length ≤ 128 →
    assemble (.lit bs) = some (BitVec.ofNat 8 (bs.length - 1) :: bs) ∧
    decodeStream (BitVec.ofNat 8 (bs.length - 1) :: bs ++ rest) =
      .ok (.lit (BitVec.ofNat 7 (bs.length - 1)), bs, rest)) ∧
  (∀ bs : List Byte, bs.length = 0 ∨ 128 < bs.length → assemble (.lit bs) = none) ∧
  (∀ (n : Nat) (b : Byte) (rest : List Byte), 2 ≤ n → n ≤ 128 →
    assemble (.rep n b) = some [BitVec.ofNat 8 (257 - n), b] ∧
    decodeStream (BitVec.ofNat 8 (257 - n) :: b :: rest) =
      .ok (.rep (BitVec.ofNat 7 (129 - n)), [b], rest)) ∧
  (∀ (n : Nat) (b : Byte), n < 2 ∨ 128 < n → assemble (.rep n b) = none) ∧
  (assemble .nop = some [0x80] ∧ ∀ rest : List Byte, decodeStream (0x80 :: rest) = .ok (.nop, [], rest)) ∧
  ∀ bs : List Byte, assemble (.raw bs) = some bs

/-- R87: FILL expands to floor(n/128) times `REP 128, b` and then REP, LIT or nothing by the remainder;
COPY to LITs of 128 bytes in order and then one LIT of the remaining bytes, if any. Each expansion is
legal runs that stand for the bytes the line names. -/
def Obligations.PseudoInstructionsExpand : Prop :=
  (∀ (n : Nat) (b : Byte), 1 ≤ n →
    assemble (.fill n b) = some (encodeRuns (fillRuns n b)) ∧
      (∀ r ∈ fillRuns n b, r.wf = true) ∧ expandRuns (fillRuns n b) = List.replicate n b) ∧
  (∀ bs : List Byte, 1 ≤ bs.length → ∃ (blocks : List (List Byte)) (tail : List Byte),
    let rs := blocks.map Run.lit ++ (if tail = [] then [] else [Run.lit tail])
    bs = blocks.flatten ++ tail ∧ (∀ block ∈ blocks, block.length = 128) ∧
      blocks.length = bs.length / 128 ∧ tail.length = bs.length % 128 ∧
      assemble (.copy bs) = some (encodeRuns rs) ∧ (∀ r ∈ rs, r.wf = true) ∧ expandRuns rs = bs)

/-! ### The run-length decompressor -/

/-- R100: ReadIn, at the end of the payload and before it. A byte the host changed during the session is
not constrained (R76, log 11). -/
def Obligations.ReadInIsBounded : Prop :=
  ∀ s : State,
    (s.latch.len ≤ s.cursor → ∃ t, readIn s = .stop (.next t) ∧
      ErrorEntered 9 1 s.cursor s.latch.target (BitVec.ofNat 32 s.outcnt) s t) ∧
    (Readable 1 s → ∃ v n, readIn s = .ok v { s with cursor := s.cursor + 1, draws := n } ∧
      (Cells.get s.touched (payloadAddr s) = 0 →
        v = Cells.get (w := 8) s.inp (payloadAddr s) ∧ n = s.draws))

/-- R102: LIT copies its run, or raises RUN_OVERFLOW before any operand is read, or raises OVERRUN
part-way with the bytes already copied in SCR. -/
def Obligations.LitCopiesOrRaises : Prop :=
  ∀ (n : BitVec 7) (s : State),
    (s.outcnt + (n.toNat + 1) ≤ s.latch.target.toNat → Readable (n.toNat + 1) s →
      ∃ t, exec (.lit n) s = .next t ∧
        t = { s with scr := t.scr, outcnt := s.outcnt + (n.toNat + 1),
                     cursor := s.cursor + BitVec.ofNat 32 (n.toNat + 1), draws := t.draws } ∧
        (∀ k, k < n.toNat + 1 → Cells.get s.touched (payloadAddr s + k) = 0 →
          Cells.get (w := 8) t.scr (s.outcnt + k) = Cells.get (w := 8) s.inp (payloadAddr s + k)) ∧
        (∀ a, a < s.outcnt ∨ s.outcnt + (n.toNat + 1) ≤ a →
          Cells.get (w := 8) t.scr a = Cells.get (w := 8) s.scr a)) ∧
    (s.latch.target.toNat < s.outcnt + (n.toNat + 1) → ∃ t, exec (.lit n) s = .next t ∧
      ErrorEntered 10 1 s.ctrlOff (s.latch.target - BitVec.ofNat 32 s.outcnt)
        (BitVec.ofNat 32 (n.toNat + 1)) s t) ∧
    (∀ j, j < n.toNat + 1 → s.outcnt + (n.toNat + 1) ≤ s.latch.target.toNat → Readable j s →
      s.cursor.toNat + j = s.latch.len.toNat →
      ∃ t, exec (.lit n) s = .next t ∧
        ErrorEntered 9 1 s.latch.len s.latch.target (BitVec.ofNat 32 (s.outcnt + j))
          { s with cursor := s.latch.len, outcnt := s.outcnt + j, draws := t.draws } t ∧
        (s.state = .busy → ∀ k, k < j → Cells.get s.touched (payloadAddr s + k) = 0 →
          Cells.get (w := 8) t.scr (s.outcnt + k) = Cells.get (w := 8) s.inp (payloadAddr s + k)))

/-- R103: REP repeats its data byte, or raises RUN_OVERFLOW before the data byte is read, or raises
OVERRUN where the control byte is the payload's last. -/
def Obligations.RepRepeatsOrRaises : Prop :=
  ∀ (n : BitVec 7) (s : State), n ≠ 0 →
    (s.outcnt + (129 - n.toNat) ≤ s.latch.target.toNat → Readable 1 s →
      ∃ t v, exec (.rep n) s = .next t ∧
        t = { s with scr := t.scr, outcnt := s.outcnt + (129 - n.toNat), cursor := s.cursor + 1,
                     draws := t.draws } ∧
        (Cells.get s.touched (payloadAddr s) = 0 → v = Cells.get (w := 8) s.inp (payloadAddr s)) ∧
        (∀ k, k < 129 - n.toNat → Cells.get (w := 8) t.scr (s.outcnt + k) = v) ∧
        (∀ a, a < s.outcnt ∨ s.outcnt + (129 - n.toNat) ≤ a →
          Cells.get (w := 8) t.scr a = Cells.get (w := 8) s.scr a)) ∧
    (s.latch.target.toNat < s.outcnt + (129 - n.toNat) → ∃ t, exec (.rep n) s = .next t ∧
      ErrorEntered 10 1 s.ctrlOff (s.latch.target - BitVec.ofNat 32 s.outcnt)
        (BitVec.ofNat 32 (129 - n.toNat)) s t) ∧
    (s.outcnt + (129 - n.toNat) ≤ s.latch.target.toNat → s.cursor = s.latch.len →
      ∃ t, exec (.rep n) s = .next t ∧
        ErrorEntered 9 1 s.latch.len s.latch.target (BitVec.ofNat 32 s.outcnt) s t)

/-- R104: NOP completes and changes nothing; its control byte was consumed by the fetch. -/
def Obligations.NopChangesNothing : Prop := ∀ s : State, exec .nop s = .next s

/-- COPY moves exactly S.TARGET bytes, undecoded, or raises OVERRUN where fewer remain (40_rle.md R105).
That the bytes already copied stay in SCR after that OVERRUN is the model's choice (log 8; R105 does not
say it, 95_test_vectors.md V21 lists them). -/
def Obligations.CopyMovesTargetBytes : Prop :=
  ∀ s : State,
    (Readable s.latch.target.toNat s →
      ∃ t, exec .copy s = .next t ∧
        t = { s with scr := t.scr, outcnt := s.latch.target.toNat,
                     cursor := s.cursor + s.latch.target, draws := t.draws } ∧
        (∀ k, k < s.latch.target.toNat → Cells.get s.touched (payloadAddr s + k) = 0 →
          Cells.get (w := 8) t.scr k = Cells.get (w := 8) s.inp (payloadAddr s + k)) ∧
        (∀ a, s.latch.target.toNat ≤ a → Cells.get (w := 8) t.scr a = Cells.get (w := 8) s.scr a)) ∧
    (∀ j, j < s.latch.target.toNat → Readable j s → s.cursor.toNat + j = s.latch.len.toNat →
      ∃ t, exec .copy s = .next t ∧
        ErrorEntered 9 1 s.latch.len s.latch.target (BitVec.ofNat 32 j)
          { s with cursor := s.latch.len, outcnt := j, draws := t.draws } t ∧
        (s.state = .busy → ∀ k, k < j → Cells.get s.touched (payloadAddr s + k) = 0 →
          Cells.get (w := 8) t.scr k = Cells.get (w := 8) s.inp (payloadAddr s + k)))

/-- R111: any sequence of LIT, REP and NOP runs whose bytes are D decompresses to exactly D, consuming
the encoding up to its last run. What follows, a trailing NOP too, is not consumed (R110). -/
def Obligations.RunSequenceDecompresses : Prop :=
  ∀ (rs : List Run) (s : State),
    (∀ r ∈ rs, r.wf = true) → rs.getLast? ≠ some .nop →
    s.phase = .decompress → s.latch.comp ≠ 0 → s.outcnt = 0 →
    s.latch.target.toNat = (expandRuns rs).length → PayloadIs (encodeRuns rs) s →
    ∃ t, steps (rs.length + 1) s = .next t ∧
      t = { s with phase := .deinterleave, scr := t.scr, outcnt := (expandRuns rs).length,
                   cursor := s.cursor + BitVec.ofNat 32 (encodeRuns rs).length,
                   ctrlOff := t.ctrlOff } ∧
      ∀ k b, (expandRuns rs)[k]? = some b → Cells.get (w := 8) t.scr k = b

/-! ### Commands -/

/-- A START whose configuration passes every check opens a session (43_commands.md R181). SCR is
unspecified between sessions (10_state.md R49) and not constrained here. -/
def Obligations.StartOpensSession : Prop :=
  ∀ s : State, s.state ≠ .busy →
    1 ≤ s.cfg.planes.toNat → s.cfg.planes.toNat ≤ 8 → s.cfg.compression.toNat ≤ 1 →
    s.cfg.masking.toNat ≤ 2 → s.cfg.width.toNat ≤ s.params.maxWidth.toNat →
    2 ^ s.cfg.planes.toNat ≤ s.cfg.palCount.toNat →
    s.cfg.payloadBase.toNat + s.cfg.payloadLen.toNat ≤ s.params.inLen.toNat →
    ∃ t, exec .start s = .next t ∧
      t = { s with
        row := 0
        cursor := 0
        rowValid := false
        err := { code := 0, offset := 0, expected := 0, found := 0 }
        latch := t.latch
        scr := t.scr
        acc := t.acc
        touched := t.touched
        draws := t.draws
        state := if s.cfg.height = 0 then .done else .ready } ∧
      LatchedFrom s.cfg t.latch ∧ (∀ x, Cells.get t.acc x = 0) ∧ (∀ a, Cells.get t.touched a = 0)

/-- R182: the seven checks, in their order; the first that fails raises its error. -/
def Obligations.StartChecksInOrder : Prop :=
  ∀ s : State, s.state ≠ .busy →
    (s.cfg.planes.toNat < 1 ∨ 8 < s.cfg.planes.toNat → ∃ t, exec .start s = .next t ∧
      StartRefused 2 2 0 8 (s.cfg.planes.setWidth 32) s t) ∧
    (1 ≤ s.cfg.planes.toNat → s.cfg.planes.toNat ≤ 8 →
      (1 < s.cfg.compression.toNat → ∃ t, exec .start s = .next t ∧
        StartRefused 3 2 0 1 (s.cfg.compression.setWidth 32) s t) ∧
      (s.cfg.compression.toNat ≤ 1 →
        (s.cfg.masking = 3 → ∃ t, exec .start s = .next t ∧ StartRefused 4 2 0 2 3 s t) ∧
        (3 < s.cfg.masking.toNat → ∃ t, exec .start s = .next t ∧
          StartRefused 5 2 0 2 (s.cfg.masking.setWidth 32) s t) ∧
        (s.cfg.masking.toNat ≤ 2 →
          (s.params.maxWidth.toNat < s.cfg.width.toNat → ∃ t, exec .start s = .next t ∧
            StartRefused 6 2 0 (s.params.maxWidth.setWidth 32) (s.cfg.width.setWidth 32) s t) ∧
          (s.cfg.width.toNat ≤ s.params.maxWidth.toNat →
            (s.cfg.palCount.toNat < 2 ^ s.cfg.planes.toNat → ∃ t, exec .start s = .next t ∧
              StartRefused 7 4 0 (BitVec.ofNat 32 (2 ^ s.cfg.planes.toNat)) s.cfg.palCount s t) ∧
            (2 ^ s.cfg.planes.toNat ≤ s.cfg.palCount.toNat →
              s.params.inLen.toNat < s.cfg.payloadBase.toNat + s.cfg.payloadLen.toNat →
              ∃ t, exec .start s = .next t ∧
                StartRefused 8 1 s.cfg.payloadBase
                  (BitVec.ofNat 32 (s.params.inLen.toNat - s.cfg.payloadBase.toNat))
                  s.cfg.payloadLen s t)))))

/-- R187: START or STEP in BUSY and STEP in ERROR change nothing. -/
def Obligations.DroppedCommandsChangeNothing : Prop :=
  ∀ s : State,
    (s.state = .busy → exec .start s = .next s ∧ exec .step s = .next s) ∧
    (s.state = .error → exec .step s = .next s)

/-- R183: a STEP in READY clears ROW_VALID and enables the row step. -/
def Obligations.StepAcceptedInReady : Prop :=
  ∀ s : State, s.state = .ready →
    exec .step s = .next { s with rowValid := false, state := .busy, phase := .enabled,
                                  stepCursor := s.cursor }

/-- R185: a STEP in DONE sets ROW_VALID to 0 and does nothing else. -/
def Obligations.StepInDoneGivesNoRow : Prop :=
  ∀ s : State, s.state = .done → exec .step s = .next { s with rowValid := false }

/-- R186: a STEP in IDLE raises ORDERING with offset 0, expected 1, found 0. -/
def Obligations.StepInIdleRaisesOrdering : Prop :=
  ∀ s : State, s.state = .idle → ∃ t, exec .step s = .next t ∧ ErrorEntered 1 3 0 1 0 s t

/-- R188: ABORT in any state; CURSOR lies between its value at the STEP and S.LEN where the state was
BUSY, and is unchanged otherwise. -/
def Obligations.AbortClosesSession : Prop :=
  ∀ s : State, ∃ t, exec .abort s = .next t ∧
    t = { s with rowValid := false, state := .idle, phase := t.phase, cursor := t.cursor,
                 scr := t.scr, acc := t.acc, draws := t.draws } ∧
    (s.state = .idle → t = { s with rowValid := false }) ∧
    (s.state ≠ .idle → t.phase = .idle) ∧
    (s.state ≠ .busy → t.cursor = s.cursor) ∧
    (s.state = .busy → s.stepCursor ≤ s.latch.len →
      s.stepCursor ≤ t.cursor ∧ t.cursor ≤ s.latch.len)

/-! ### A step runs the decoded instruction -/

/-- In the decompression phase of a run-length session the step consumes the control byte at
S.BASE + CURSOR, notes its offset and runs the instruction it decodes to (40_rle.md R101). A byte the host
changed during the session is not constrained (20_memory.md R76, log 11). -/
def Obligations.StepRunsControlInstruction : Prop :=
  ∀ s : State, s.phase = .decompress → s.outcnt < s.latch.target.toNat → s.latch.comp ≠ 0 →
    Readable 1 s →
    ∃ b n, step s = exec (decodeControl b)
        { s with ctrlOff := s.cursor, cursor := s.cursor + 1, draws := n } ∧
      (Cells.get s.touched (payloadAddr s) = 0 →
        b = Cells.get (w := 8) s.inp (payloadAddr s) ∧ n = s.draws)

/-- In the decompression phase of a session with S.COMP = 0 the step runs COPY (40_rle.md R105,
30_encoding.md R84). -/
def Obligations.StepRunsCopy : Prop :=
  ∀ s : State, s.phase = .decompress → s.outcnt < s.latch.target.toNat → s.latch.comp = 0 →
    step s = exec .copy s

/-- On the host's turn a write to CTRL runs the command its bits encode, or nothing
(43_commands.md R180, 10_state.md R26). -/
def Obligations.StepRunsCommand : Prop :=
  ∀ (s : State) (w : Word) (rest : List Input), Writes .ctrl w rest s →
    (∀ i, decodeCommand w = some i → step s = exec i { s with inputs := rest }) ∧
    (decodeCommand w = none → step s = .next { s with inputs := rest })

/-- A control byte that cannot be read raises OVERRUN with CURSOR where it is (40_rle.md R100, R101). -/
def Obligations.MissingControlByteRaisesOverrun : Prop :=
  ∀ s : State, s.phase = .decompress → s.outcnt < s.latch.target.toNat → s.latch.comp ≠ 0 →
    s.latch.len ≤ s.cursor →
    ∃ t, step s = .next t ∧
      ErrorEntered 9 1 s.cursor s.latch.target (BitVec.ofNat 32 s.outcnt)
        { s with ctrlOff := s.cursor } t

/-- A NOP control byte in the stream consumes itself and nothing else: only CURSOR moves, and the loop's
hidden control offset (30_encoding.md R83, 40_rle.md R104). -/
def Obligations.NopByteMovesOnlyCursor : Prop :=
  ∀ s : State, s.phase = .decompress → s.outcnt < s.latch.target.toNat → s.latch.comp ≠ 0 →
    Readable 1 s → Cells.get s.touched (payloadAddr s) = 0 →
    Cells.get (w := 8) s.inp (payloadAddr s) = 0x80 →
    step s = .next { s with ctrlOff := s.cursor, cursor := s.cursor + 1 }

/-- A complete row ends the decompression without another read, so a trailing NOP is left for the next
row (40_rle.md R101, R110). -/
def Obligations.CompleteRowReadsNoMore : Prop :=
  ∀ s : State, s.phase = .decompress → s.latch.target.toNat ≤ s.outcnt →
    step s = .next { s with phase := .deinterleave }

/-! ### Deinterleave -/

/-- R144: on a clear accumulator each cell below S.WIDTH becomes the OR of the set plane bits, modulo
2^ACC_WIDTH; nothing else changes. -/
def Obligations.DeinterleaveOrsPlaneBits : Prop :=
  ∀ s : State, s.phase = .deinterleave →
    (∀ x, x < s.latch.width.toNat → Cells.get s.acc x = 0) →
    ∃ t, step s = .next t ∧ t = { s with acc := t.acc, phase := .resolve } ∧
      (∀ x p, x < s.latch.width.toNat →
        ((Cells.get t.acc x).getLsbD p = true ↔
          p < s.latch.eff.toNat ∧ p < s.params.accWidth.bits ∧
          (Cells.get (w := 8) s.scr (p * s.latch.stride.toNat + x / 8)).getLsbD (7 - x % 8) = true)) ∧
      (∀ x, s.latch.width.toNat ≤ x → Cells.get t.acc x = Cells.get s.acc x)

/-- R143: the padding bits do not affect any index. Two SCRs that agree on the bits of the columns below
S.WIDTH give the same accumulator. -/
def Obligations.PaddingBitsDoNotMatter : Prop :=
  ∀ (s : State) (other : Memory) (t u : State), s.phase = .deinterleave →
    (∀ p x, p < s.latch.eff.toNat → x < s.latch.width.toNat →
      (Cells.get (w := 8) other (p * s.latch.stride.toNat + x / 8)).getLsbD (7 - x % 8) =
        (Cells.get (w := 8) s.scr (p * s.latch.stride.toNat + x / 8)).getLsbD (7 - x % 8)) →
    step s = .next t → step { s with scr := other } = .next u → u.acc = t.acc

/-- R146: with ACC_WIDTH = 8 the ninth plane has no effect on any index, and for images of up to 8 planes
in all the two widths give the same accumulator. -/
def Obligations.EightBitAccumulatorLosesMaskPlane : Prop :=
  ∀ (s t u : State), s.phase = .deinterleave →
    (∀ x, x < s.latch.width.toNat → Cells.get s.acc x = 0) →
    step { s with params := { s.params with accWidth := .eight } } = .next t →
    step { s with params := { s.params with accWidth := .nine } } = .next u →
    ∀ x, x < s.latch.width.toNat →
      (Cells.get t.acc x).toNat = (Cells.get u.acc x).toNat % 256 ∧
      (s.latch.eff.toNat ≤ 8 → Cells.get t.acc x = Cells.get u.acc x)

/-- R147: the bounds of a raw index. -/
def Obligations.RawIndexBounded : Prop :=
  ∀ (s t : State), s.phase = .deinterleave → LatchDerived s.latch →
    (∀ x, x < s.latch.width.toNat → Cells.get s.acc x = 0) → step s = .next t →
    ∀ x, x < s.latch.width.toNat →
      (s.latch.mask ≠ 1 → (Cells.get t.acc x).toNat < 2 ^ s.latch.planes.toNat) ∧
      (s.latch.mask = 1 → (Cells.get t.acc x).toNat < 2 ^ (s.latch.planes.toNat + 1)) ∧
      (s.params.accWidth = .eight → (Cells.get t.acc x).toNat < 256)

/-! ### Resolve and handoff -/

/-- R160–R164: each column's pixel by the masking scheme, and its accumulator cell cleared. -/
def Obligations.ResolveWritesPixels : Prop :=
  ∀ s : State, s.phase = .resolve →
    (∀ x i, x < s.latch.width.toNat → resolveIndex s.latch (Cells.get s.acc x) = some i →
      Cells.get s.palWritten i.toNat = 1) →
    ∃ t, step s = .next t ∧ t = { s with rb := t.rb, acc := t.acc, phase := .handoff } ∧
      (∀ x, x < s.latch.width.toNat →
        (s.latch.mask = 0 → OpaquePixel s t x (Cells.get s.acc x).toNat) ∧
        (s.latch.mask = 1 → (Cells.get s.acc x).toNat = 2 ^ s.latch.planes.toNat →
          TransparentPixel t x) ∧
        (s.latch.mask = 1 → (Cells.get s.acc x).toNat ≠ 2 ^ s.latch.planes.toNat →
          OpaquePixel s t x ((Cells.get s.acc x).toNat -
            if (Cells.get s.acc x).toNat.testBit s.latch.planes.toNat = true
            then 2 ^ s.latch.planes.toNat else 0)) ∧
        (s.latch.mask = 2 → (Cells.get s.acc x).toNat = s.latch.tcolor.toNat →
          TransparentPixel t x) ∧
        (s.latch.mask = 2 → (Cells.get s.acc x).toNat ≠ s.latch.tcolor.toNat →
          OpaquePixel s t x (Cells.get s.acc x).toNat)) ∧
      (∀ x, Cells.get t.acc x = if x < s.latch.width.toNat then 0 else Cells.get s.acc x) ∧
      (∀ a, 4 * s.latch.width.toNat ≤ a → Cells.get (w := 8) t.rb a = Cells.get (w := 8) s.rb a)

/-- R165: every palette read of a row is in range, written or not; where the palette is loaded the row
resolves. -/
def Obligations.PaletteReadsInRange : Prop :=
  ∀ s : State, Controlled s → AccClear s → s.phase = .deinterleave →
    ∃ t, step s = .next t ∧
      (∀ x i, x < s.latch.width.toNat → resolveIndex t.latch (Cells.get t.acc x) = some i →
        i.toNat < 2 ^ s.latch.planes.toNat ∧ 2 ^ s.latch.planes.toNat ≤ 256 ∧
          i.toNat < s.latch.palCount.toNat) ∧
      (PaletteLoaded s → ∃ u, step t = .next u ∧ u.phase = .handoff)

/-- A pixel whose palette entry was not written since reset stops the model with a fault
(10_state.md R53, 93_implementation_defined.md M3). -/
def Obligations.UnwrittenPaletteEntryFaults : Prop :=
  ∀ (s : State) (x : Nat) (i : AccCell), s.phase = .resolve → x < s.latch.width.toNat →
    resolveIndex s.latch (Cells.get s.acc x) = some i → Cells.get s.palWritten i.toNat = 0 →
    step s = .fault .paletteUnwritten

/-- The row handed to an accepting sink (42_resolve.md R166, the end of 43_commands.md R184). That SCR and RB
keep their bytes after the last row is the model's choice (log 8). -/
def Obligations.HandoffEmitsRow : Prop :=
  ∀ s : State, s.phase = .handoff → s.sinkReady = true →
    ∃ r, step s = .next { s with
        out := r :: s.out
        row := s.row + 1
        rowValid := true
        state := if s.row + 1 = s.latch.height then .done else .ready
        phase := .idle } ∧
      r.y = s.row ∧ r.bytes.length = 4 * s.latch.width.toNat ∧
      ∀ k, k < 4 * s.latch.width.toNat → r.bytes[k]? = some (Cells.get (w := 8) s.rb k)

/-- R197: while the sink stalls the block stays BUSY and emits no row; only an ABORT written to CTRL or a
reset releases it. With nothing pending a row the sink must take stays as it is, and a row step that ends in
an error begins all the same (log 13; that the row waits before its bytes are read is log 25). -/
def Obligations.StalledSinkHoldsBusy : Prop :=
  ∀ s : State, s.phase = .enabled ∨ s.phase = .handoff → s.sinkReady = false → s.state = .busy →
    (s.inputs = [] → s.phase = .enabled →
      ((∃ k t, steps k (beginRow s) = .next t ∧ t.phase = .deinterleave) → step s = .next s) ∧
      ((∀ k t, steps k (beginRow s) = .next t → t.phase ≠ .deinterleave) →
        step s = .next (beginRow s))) ∧
    (s.inputs = [] → s.phase = .handoff → step s = .next s) ∧
    ∀ t, step s = .next t → t.out = s.out ∧
      (t.state = .busy ∨ TakesCommand .abort s ∨ TakesReset s)

/-- A row step whose palette is loaded and whose sink accepts ends within S.LEN − CURSOR + 6 steps: with
one whole row, or in ERROR with no row and ROW unchanged (40_rle.md R106, 43_commands.md R184). -/
def Obligations.RowStepCompletes : Prop :=
  ∀ s : State, Controlled s → AccClear s → PaletteLoaded s → s.phase = .enabled →
    s.sinkReady = true → s.inputs = [] →
    ∃ k t, k ≤ s.latch.len.toNat - s.cursor.toNat + 6 ∧
      steps k s = .next t ∧ t.phase = .idle ∧
      ((t.state = .error ∧ t.rowValid = false ∧ t.out = s.out ∧ t.row = s.row) ∨
       (t.rowValid = true ∧ t.row = s.row + 1 ∧
        t.state = (if s.row + 1 = s.latch.height then .done else .ready) ∧
        ∃ r, t.out = r :: s.out ∧ r.y = s.row ∧ r.bytes.length = 4 * s.latch.width.toNat))

/-! ### The register window -/

/-- R68: reading a register returns it and changes nothing else. ROW, CURSOR and STATUS are read while
STATE ≠ BUSY. -/
def Obligations.ReadsReturnRegisters : Prop :=
  ∀ (s : State) (rest : List Input),
    let returns := fun (r : Reg) (v : Word) =>
      Reads r rest s → step s = .next { s with inputs := rest, reads := v :: s.reads }
    returns .ctrl 0 ∧ returns .errCode s.err.code ∧ returns .errOffset s.err.offset ∧
    returns .errExpected s.err.expected ∧ returns .errFound s.err.found ∧
    returns .width (BitVec.ofNat 32 s.cfg.width.toNat) ∧
    returns .height (BitVec.ofNat 32 s.cfg.height.toNat) ∧
    returns .planes (BitVec.ofNat 32 s.cfg.planes.toNat) ∧
    returns .masking (BitVec.ofNat 32 s.cfg.masking.toNat) ∧
    returns .compression (BitVec.ofNat 32 s.cfg.compression.toNat) ∧
    returns .tcolor (BitVec.ofNat 32 s.cfg.tcolor.toNat) ∧
    returns .payloadBase s.cfg.payloadBase ∧ returns .payloadLen s.cfg.payloadLen ∧
    returns .palCount s.cfg.palCount ∧
    returns .stride (BitVec.ofNat 32 ((s.cfg.width.toNat + 15) / 16 * 2)) ∧
    returns .target s.latch.target ∧
    (∀ i, Cells.get s.palWritten i.toNat = 1 →
      returns (.palette i) (BitVec.ofNat 32 (Cells.get s.pal i.toNat).toNat)) ∧
    (s.state ≠ .busy → returns .row (BitVec.ofNat 32 s.row.toNat) ∧ returns .cursor s.cursor) ∧
    (s.state = .idle → returns .status (if s.rowValid then 8 else 0)) ∧
    (s.state = .ready → returns .status (if s.rowValid then 9 else 1)) ∧
    (s.state = .done → returns .status (if s.rowValid then 11 else 3)) ∧
    (s.state = .error → returns .status (if s.rowValid then 12 else 4))

/-- R55: in BUSY, ROW, CURSOR and ROW_VALID read as values nothing constrains, STATE reads BUSY, and the
registers keep their values. -/
def Obligations.BusyReadsAreUnspecified : Prop :=
  ∀ (s : State) (rest : List Input), s.state = .busy →
    (Reads .row rest s → ∃ v : Half, step s =
      .next { s with inputs := rest, reads := v.setWidth 32 :: s.reads, draws := s.draws + 1 }) ∧
    (Reads .cursor rest s → ∃ v : Word, step s =
      .next { s with inputs := rest, reads := v :: s.reads, draws := s.draws + 1 }) ∧
    (Reads .status rest s → ∃ v : Word, (v = 2 ∨ v = 10) ∧ step s =
      .next { s with inputs := rest, reads := v :: s.reads, draws := s.draws + 1 })

/-- R32–R40: a write to a configuration register stores the field's bits and drops the reserved ones, in
every state, and changes nothing else (R68). -/
def Obligations.ConfigurationWritesStore : Prop :=
  ∀ (s : State) (v : Word) (rest : List Input),
    let stores := fun (r : Reg) (c : Cfg) =>
      Writes r v rest s → step s = .next { s with inputs := rest, cfg := c }
    stores .width { s.cfg with width := BitVec.ofNat 16 v.toNat } ∧
    stores .height { s.cfg with height := BitVec.ofNat 16 v.toNat } ∧
    stores .planes { s.cfg with planes := BitVec.ofNat 8 v.toNat } ∧
    stores .masking { s.cfg with masking := BitVec.ofNat 8 v.toNat } ∧
    stores .compression { s.cfg with compression := BitVec.ofNat 8 v.toNat } ∧
    stores .tcolor { s.cfg with tcolor := BitVec.ofNat 16 v.toNat } ∧
    stores .payloadBase { s.cfg with payloadBase := v } ∧
    stores .payloadLen { s.cfg with payloadLen := v } ∧
    stores .palCount { s.cfg with palCount := v }

/-- R44: a palette write stores bits 23:0 while no row is owed, and is dropped in READY and BUSY. -/
def Obligations.PaletteWritesStoreOrDrop : Prop :=
  ∀ (s : State) (i : BitVec 8) (v : Word) (rest : List Input), Writes (.palette i) v rest s →
    (s.state ≠ .ready → s.state ≠ .busy →
      ∃ t, step s = .next t ∧
        t = { s with inputs := rest, pal := t.pal, palWritten := t.palWritten } ∧
        (Cells.get t.pal i.toNat).toNat = v.toNat % 2 ^ 24 ∧ Cells.get t.palWritten i.toNat = 1 ∧
        ∀ j, j ≠ i.toNat → Cells.get t.pal j = Cells.get s.pal j ∧
          Cells.get t.palWritten j = Cells.get s.palWritten j) ∧
    (s.state = .ready ∨ s.state = .busy → step s = .next { s with inputs := rest })

/-- R45: an unmapped offset reads 0 and ignores writes. -/
def Obligations.UnmappedOffsetsAreInert : Prop :=
  ∀ (s : State) (off : Nat) (v : Word) (rest : List Input), off < 2048 → off % 4 = 0 →
    (∀ r : Reg, r.offset ≠ off) → rowStepRuns s = false → s.params.wf = true →
    (s.inputs = .read (s.params.regBase + BitVec.ofNat 32 off) .bits32 :: rest →
      step s = .next { s with inputs := rest, reads := 0 :: s.reads }) ∧
    (s.inputs = .write (s.params.regBase + BitVec.ofNat 32 off) .bits32 v :: rest →
      step s = .next { s with inputs := rest })

/-- A write to a read-only register is ignored (20_memory.md R68, 10_state.md R27). -/
def Obligations.ReadOnlyWritesIgnored : Prop :=
  ∀ (s : State) (r : Reg) (v : Word) (rest : List Input),
    r ∈ [Reg.status, .errCode, .errOffset, .errExpected, .errFound, .stride, .row, .cursor, .target] →
    Writes r v rest s → step s = .next { s with inputs := rest }

/-- R67: an access inside the window that is not 32 bits wide, or not at a multiple of 4, is refused. -/
def Obligations.OddAccessesRefused : Prop :=
  ∀ (s : State) (off : Nat) (w : AccessWidth) (v : Word) (rest : List Input), off < 2048 →
    rowStepRuns s = false → s.params.wf = true → w ≠ .bits32 ∨ off % 4 ≠ 0 →
    (s.inputs = .read (s.params.regBase + BitVec.ofNat 32 off) w :: rest ∨
      s.inputs = .write (s.params.regBase + BitVec.ofNat 32 off) w v :: rest) →
    step s = .refused .accessShape

/-! ### Memory -/

/-- The host's fill stores its bytes in IN and nothing else but the marks of R76, in a stall too, where the
waiting row reads none before it (70_reset_and_hazards.md R256, log 25); an address at or above IN_LEN faults
(20_memory.md R60, R61, R76). -/
def Obligations.HostFillStoresBytes : Prop :=
  ∀ (s : State) (a : Nat) (bs : List Byte) (rest : List Input), rowStepRuns s = false →
    s.inputs = .fill a bs :: rest →
    (a + bs.length ≤ s.params.inLen.toNat →
      ∃ t, step s = .next t ∧
        t = { s with inputs := rest, inp := t.inp, touched := t.touched } ∧
        (∀ k b, bs[k]? = some b → Cells.get (w := 8) t.inp (a + k) = b ∧
          ((s.state = .ready ∨ s.state = .busy) → s.latch.base.toNat ≤ a + k →
            a + k < s.latch.base.toNat + s.latch.len.toNat → Cells.get t.touched (a + k) = 1)) ∧
        (∀ j, j < a ∨ a + bs.length ≤ j → Cells.get (w := 8) t.inp j = Cells.get (w := 8) s.inp j ∧
          Cells.get t.touched j = Cells.get s.touched j)) ∧
    (s.params.inLen.toNat < a + bs.length → step s = .fault .inOutOfRange)

/-- The block never writes IN, and no step changes the parameters (20_memory.md R62, 00_scope.md R7). -/
def Obligations.BlockNeverWritesIn : Prop :=
  ∀ s t : State, step s = .next t →
    t.params = s.params ∧
    (t.inp = s.inp ∨ ∃ a bs, s.inputs.head? = some (.fill a bs) ∧ rowStepRuns s = false)

/-- Under the control invariant the block never reads IN outside its bounds: no step of the row step
faults on an address (20_memory.md R61). CURSOR, whose value is the address of each read, only rises, and only
in a decompression, but for a START, an ABORT in BUSY and a reset (20_memory.md R62, 10_state.md R21). -/
def Obligations.PayloadReadsStayInside : Prop :=
  (∀ s : State, Controlled s → s.phase = .decompress → step s ≠ .fault .inOutOfRange) ∧
  ∀ s t : State, step s = .next t →
    t.cursor = s.cursor ∨ (s.phase = .decompress ∧ s.cursor < t.cursor) ∨
      (s.state ≠ .busy ∧ TakesCommand .start s) ∨ (s.state = .busy ∧ TakesCommand .abort s) ∨
      TakesReset s

/-! ### Reset -/

/-- The reset values R53 gives (the values R53 leaves unspecified are the model's, logs 5–7, and are not
stated here). -/
def Obligations.ResetValues : Prop :=
  State.reset.state = .idle ∧ State.reset.rowValid = false ∧
    State.reset.err = { code := 0, offset := 0, expected := 0, found := 0 } ∧
    State.reset.cfg = { width := 0, height := 0, planes := 0, masking := 0, compression := 0,
                        tcolor := 0, payloadBase := 0, payloadLen := 0, palCount := 0 } ∧
    State.reset.row = 0 ∧ State.reset.cursor = 0 ∧ State.reset.latch.target = 0 ∧
    strideOf State.reset.cfg.width = 0 ∧ ∀ i, palRead State.reset i = none

/-- Reset on the platform's turn puts every register at its reset value and cancels the row step; IN, the
rows already emitted and the parameters stay (70_reset_and_hazards.md R250). The model's choices in it:
where R53 leaves a value unspecified, the zeros of State.reset (latches log 6, palette cells and marks log
5, SCR, ACC, RB, OUTCNT and the hidden registers log 7); that the sink's readiness (log 13), the reads
already delivered, the rows emitted (log 14), the pending inputs (log 2) and the count of draws (logs 9
and 11) are outside the reset; and when it is taken (log 1). -/
def Obligations.ResetClearsTheBlock : Prop :=
  ∀ (s : State) (rest : List Input), rowStepRuns s = false → s.inputs = .reset :: rest →
    step s = .next { State.reset with
      params := s.params, inp := s.inp, out := s.out, sinkReady := s.sinkReady, inputs := rest,
      reads := s.reads, draws := s.draws }

/-! ### Invariants and whole-machine rules -/

/-- State.reset meets the invariants Canonical, Controlled, AccClear and RowsInOrder. It rests on the zeros
the model chose where R53 leaves a value unspecified: the palette cells (log 5), the latches (log 6), SCR,
ACC, RB, OUTCNT and the phase (log 7); and on IN and the event list empty at reset (logs 4, 14). -/
def Obligations.ResetMeetsInvariants : Prop :=
  Canonical State.reset ∧ Controlled State.reset ∧ AccClear State.reset ∧ RowsInOrder State.reset

/-- Every step keeps every storage in its canonical form. -/
def Obligations.CanonicalFormKept : Prop :=
  ∀ s t : State, Canonical s → step s = .next t → Canonical t

/-- Every step keeps the control invariant: STATE, the phase, ROW, CURSOR, the latches and OUTCNT agree
(10_state.md R21, R24, R46, R52), and a row under way has its sink or ends in an error (20_memory.md R72; how
the row waits is the model's choice, log 25). -/
def Obligations.ControlInvariantKept : Prop :=
  ∀ s t : State, Controlled s → step s = .next t → Controlled t

/-- Every step keeps the accumulator clear outside a row's resolve (41_deinterleave.md R145). -/
def Obligations.AccumulatorClearKept : Prop :=
  ∀ s t : State, Controlled s → AccClear s → step s = .next t → AccClear t

/-- Every step keeps the session's rows in order, each of 4 · S.WIDTH bytes (20_memory.md R73). -/
def Obligations.RowsInOrderKept : Prop :=
  ∀ s t : State, Controlled s → RowsInOrder s → step s = .next t → RowsInOrder t

/-- R47: the latches change only by an accepted START, written to CTRL while STATE ≠ BUSY, or by a
reset. -/
def Obligations.LatchesFixedInSession : Prop :=
  ∀ s t : State, step s = .next t →
    t.latch = s.latch ∨ (s.state ≠ .busy ∧ TakesCommand .start s) ∨ TakesReset s

/-- The palette does not change in READY or BUSY, but for a reset (43_commands.md R189). -/
def Obligations.PaletteFixedInSession : Prop :=
  ∀ s t : State, s.state = .ready ∨ s.state = .busy → step s = .next t →
    (t.pal = s.pal ∧ t.palWritten = s.palWritten) ∨ TakesReset s

/-- ERROR and its record stay until a START or an ABORT written to CTRL, or a reset (60_exceptions.md
R225); ABORT goes to IDLE and keeps the record. -/
def Obligations.ErrorIsSticky : Prop :=
  ∀ s t : State, Controlled s → s.state = .error → step s = .next t →
    (t.state = .error ∧ t.err = s.err) ∨ TakesCommand .start s ∨
      (TakesCommand .abort s ∧ t.state = .idle ∧ t.err = s.err) ∨ TakesReset s

/-- A row leaves the block only whole, and only at a handoff to an accepting sink (10_state.md R54). -/
def Obligations.RowsLeaveOnlyWhole : Prop :=
  ∀ s t : State, step s = .next t →
    t.out = s.out ∨
      (s.phase = .handoff ∧ s.sinkReady = true ∧
        ∃ r, t.out = r :: s.out ∧ r.y = s.row ∧ r.bytes.length = 4 * s.latch.width.toNat)
end

