-- ==== Sys2Proof/Laws/Cells.lean ====
section
/-! SUPPORT. The laws of storage by index: a read after a write, writes elsewhere, and the canonical
form, which every operation keeps and which makes equal contents equal data. -/

namespace Sys2Proof.Machine

variable {w : Nat}

@[simp] theorem Cells.get_nil (a : Nat) : Cells.get ([] : Cells w) a = 0 := rfl

theorem Cells.get_cons (c : Nat × BitVec w) (m : Cells w) (a : Nat) :
    Cells.get (c :: m) a = if c.1 = a then c.2 else Cells.get m a := rfl

theorem Cells.get_filter_ne (m : Cells w) {a b : Nat} (h : b ≠ a) :
    Cells.get (m.filter (fun c => c.1 != a)) b = Cells.get m b := by
  induction m with
  | nil => rfl
  | cons c m ih =>
    by_cases hc : c.1 = a
    · have : c.1 ≠ b := fun e => h (e ▸ hc)
      simp [hc, ih, Ne.symm h, Cells.get_cons]
    · simp [hc, ih, Cells.get_cons]

theorem Cells.get_filter_same (m : Cells w) (a : Nat) :
    Cells.get (m.filter (fun c => c.1 != a)) a = 0 := by
  induction m with
  | nil => rfl
  | cons c m ih =>
    by_cases hc : c.1 = a
    · simp [hc, ih]
    · simp [hc, ih, Cells.get_cons]

theorem Cells.get_filter_lt (m : Cells w) (lo a : Nat) :
    Cells.get (m.filter (fun c => c.1 < lo)) a = if a < lo then Cells.get m a else 0 := by
  induction m with
  | nil => simp
  | cons c m ih =>
    by_cases hc : c.1 < lo
    · by_cases ha : c.1 = a
      · subst ha; simp [hc, Cells.get_cons]
      · simp [hc, ih, Cells.get_cons, ha]
    · by_cases ha : c.1 = a
      · subst ha; simp [hc, ih]
      · simp [hc, ih, Cells.get_cons, ha]

theorem Cells.get_insert_same (m : Cells w) (a : Nat) (v : BitVec w) (h : ∀ c ∈ m, c.1 ≠ a) :
    Cells.get (Cells.insert m a v) a = v := by
  induction m with
  | nil => simp [Cells.insert, Cells.get_cons]
  | cons c m ih =>
    have hc : c.1 ≠ a := h c (by simp)
    unfold Cells.insert
    split
    · simp [Cells.get_cons]
    · simp [Cells.get_cons, hc, ih (fun d hd => h d (by simp [hd]))]

theorem Cells.get_insert_ne (m : Cells w) {a b : Nat} (v : BitVec w) (h : b ≠ a) :
    Cells.get (Cells.insert m a v) b = Cells.get m b := by
  induction m with
  | nil => simp [Cells.insert, Cells.get_cons, Ne.symm h]
  | cons c m ih =>
    unfold Cells.insert
    split
    · simp [Cells.get_cons, Ne.symm h]
    · simp [Cells.get_cons, ih]

/-- A read of the index just written gives the value written. -/
@[simp] theorem Cells.get_set_same (m : Cells w) (a : Nat) (v : BitVec w) :
    Cells.get (Cells.set m a v) a = v := by
  unfold Cells.set
  split
  · next h => rw [Cells.get_filter_same, h]; rfl
  · exact Cells.get_insert_same _ _ _ (by intro c hc; simpa using (List.mem_filter.1 hc).2)

/-- A write leaves every other index alone. -/
theorem Cells.get_set_ne (m : Cells w) {a b : Nat} (v : BitVec w) (h : b ≠ a) :
    Cells.get (Cells.set m a v) b = Cells.get m b := by
  unfold Cells.set
  split
  · exact Cells.get_filter_ne m h
  · rw [Cells.get_insert_ne _ _ h, Cells.get_filter_ne m h]

/-- A read after a write, at any index. -/
theorem Cells.get_set (m : Cells w) (a b : Nat) (v : BitVec w) :
    Cells.get (Cells.set m a v) b = if b = a then v else Cells.get m b := by
  by_cases h : b = a
  · subst h; simp
  · simp [h, Cells.get_set_ne m v h]

/-- What a run of writes leaves at an index. -/
theorem Cells.get_setRange (vs : List (BitVec w)) (m : Cells w) (a b : Nat) :
    Cells.get (Cells.setRange m a vs) b =
      if a ≤ b ∧ b < a + vs.length then vs.getD (b - a) 0 else Cells.get m b := by
  induction vs generalizing m a with
  | nil => simp [Cells.setRange, show ¬ (a ≤ b ∧ b < a) by omega]
  | cons v vs ih =>
    rw [Cells.setRange, ih, Cells.get_set]
    by_cases h1 : a + 1 ≤ b ∧ b < a + 1 + vs.length
    · obtain ⟨k, rfl⟩ : ∃ k, b = a + 1 + k := ⟨b - (a + 1), by omega⟩
      have h2 : a ≤ a + 1 + k ∧ a + 1 + k < a + (v :: vs).length := by simp; omega
      have h3 : a + 1 + k - a = k + 1 := by omega
      have h4 : a + 1 + k - (a + 1) = k := by omega
      rw [if_pos h1, if_pos h2, h3, h4]; simp
    · rw [if_neg h1]
      by_cases hb : b = a
      · subst hb; simp
      · have : ¬ (a ≤ b ∧ b < a + (v :: vs).length) := by simp; omega
        rw [if_neg this, if_neg hb]

/-! ### The canonical form -/

theorem Cells.wf_nil : Cells.wf ([] : Cells w) := by simp [Cells.wf]

theorem Cells.wf_filter {m : Cells w} (h : Cells.wf m) (p : Nat × BitVec w → Bool) :
    Cells.wf (m.filter p) :=
  ⟨h.1.filter p, fun c hc => h.2 c (List.mem_filter.1 hc).1⟩

theorem Cells.mem_insert {m : Cells w} {a : Nat} {v : BitVec w} {c : Nat × BitVec w}
    (h : c ∈ Cells.insert m a v) : c = (a, v) ∨ c ∈ m := by
  induction m with
  | nil => left; simpa [Cells.insert] using h
  | cons d m ih =>
    unfold Cells.insert at h
    split at h
    · simpa using h
    · rcases List.mem_cons.1 h with h | h
      · right; simp [h]
      · rcases ih h with h | h
        · exact .inl h
        · right; simp [h]

theorem Cells.wf_insert {m : Cells w} (h : Cells.wf m) {a : Nat} {v : BitVec w} (hv : v ≠ 0)
    (ha : ∀ c ∈ m, c.1 ≠ a) : Cells.wf (Cells.insert m a v) := by
  induction m with
  | nil => simpa [Cells.insert, Cells.wf] using hv
  | cons d m ih =>
    obtain ⟨hs, hz⟩ := h
    have hs' := List.pairwise_cons.1 hs
    unfold Cells.insert
    split
    · next hlt =>
      refine ⟨List.pairwise_cons.2 ⟨?_, hs⟩, ?_⟩
      · intro c hc
        rcases List.mem_cons.1 hc with rfl | hc
        · exact hlt
        · exact Nat.lt_trans hlt (hs'.1 c hc)
      · intro c hc
        rcases List.mem_cons.1 hc with rfl | hc
        · exact hv
        · exact hz c hc
    · next hge =>
      have hd : d.1 ≠ a := ha d (by simp)
      have hm := ih ⟨hs'.2, fun c hc => hz c (by simp [hc])⟩ (fun c hc => ha c (by simp [hc]))
      refine ⟨List.pairwise_cons.2 ⟨?_, hm.1⟩, ?_⟩
      · intro c hc
        rcases Cells.mem_insert hc with rfl | hc
        · show d.1 < a; omega
        · exact hs'.1 c hc
      · intro c hc
        rcases List.mem_cons.1 hc with rfl | hc
        · exact hz _ (by simp)
        · exact hm.2 c hc

/-- A write keeps the canonical form. -/
theorem Cells.wf_set {m : Cells w} (h : Cells.wf m) (a : Nat) (v : BitVec w) :
    Cells.wf (Cells.set m a v) := by
  unfold Cells.set
  split
  · exact Cells.wf_filter h _
  · next hv =>
    exact Cells.wf_insert (Cells.wf_filter h _) hv
      (by intro c hc; simpa using (List.mem_filter.1 hc).2)

theorem Cells.wf_setRange (vs : List (BitVec w)) {m : Cells w} (h : Cells.wf m) (a : Nat) :
    Cells.wf (Cells.setRange m a vs) := by
  induction vs generalizing m a with
  | nil => exact h
  | cons v vs ih => exact ih (Cells.wf_set h a v) (a + 1)

theorem Cells.get_of_mem {m : Cells w} (h : Cells.wf m) {c : Nat × BitVec w} (hc : c ∈ m) :
    Cells.get m c.1 = c.2 := by
  induction m with
  | nil => simp at hc
  | cons d m ih =>
    have hs := List.pairwise_cons.1 h.1
    rcases List.mem_cons.1 hc with rfl | hc'
    · simp [Cells.get_cons]
    · have : d.1 ≠ c.1 := Nat.ne_of_lt (hs.1 c hc')
      simp [Cells.get_cons, this, ih ⟨hs.2, fun e he => h.2 e (by simp [he])⟩ hc']

theorem Cells.get_eq_zero_of_lt {m : Cells w} {a : Nat} (h : ∀ c ∈ m, a < c.1) :
    Cells.get m a = 0 := by
  induction m with
  | nil => rfl
  | cons d m ih =>
    have : d.1 ≠ a := Nat.ne_of_gt (h d (by simp))
    simp [Cells.get_cons, this, ih (fun c hc => h c (by simp [hc]))]

/-- Canonical storages with equal contents are equal data. -/
theorem Cells.eq_of_get_eq {m n : Cells w} (hm : Cells.wf m) (hn : Cells.wf n)
    (h : ∀ a, Cells.get m a = Cells.get n a) : m = n := by
  induction m generalizing n with
  | nil =>
    cases n with
    | nil => rfl
    | cons d n =>
      have := h d.1
      rw [Cells.get_of_mem hn (by simp)] at this
      exact absurd this.symm (hn.2 d (by simp))
  | cons c m ih =>
    cases n with
    | nil =>
      have := h c.1
      rw [Cells.get_of_mem hm (by simp)] at this
      exact absurd this (hm.2 c (by simp))
    | cons d n =>
      have hms := List.pairwise_cons.1 hm.1
      have hns := List.pairwise_cons.1 hn.1
      have key : c.1 = d.1 := by
        rcases Nat.lt_trichotomy c.1 d.1 with hlt | heq | hgt
        · have hz : Cells.get (d :: n) c.1 = 0 := Cells.get_eq_zero_of_lt (by
            intro e he
            rcases List.mem_cons.1 he with rfl | he
            · exact hlt
            · exact Nat.lt_trans hlt (hns.1 e he))
          rw [← h, Cells.get_of_mem hm (by simp)] at hz
          exact absurd hz (hm.2 c (by simp))
        · exact heq
        · have hz : Cells.get (c :: m) d.1 = 0 := Cells.get_eq_zero_of_lt (by
            intro e he
            rcases List.mem_cons.1 he with rfl | he
            · exact hgt
            · exact Nat.lt_trans hgt (hms.1 e he))
          rw [h, Cells.get_of_mem hn (by simp)] at hz
          exact absurd hz (hn.2 d (by simp))
      have hval : c.2 = d.2 := by
        have := h c.1
        rwa [Cells.get_of_mem hm (by simp), key, Cells.get_of_mem hn (by simp)] at this
      have hcd : c = d := Prod.ext key hval
      subst hcd
      have htail : m = n := by
        apply ih ⟨hms.2, fun e he => hm.2 e (by simp [he])⟩ ⟨hns.2, fun e he => hn.2 e (by simp [he])⟩
        intro a
        have ha := h a
        rw [Cells.get_cons, Cells.get_cons] at ha
        by_cases hca : c.1 = a
        · subst hca
          rw [Cells.get_eq_zero_of_lt hms.1, Cells.get_eq_zero_of_lt hns.1]
        · simpa [hca] using ha
      rw [htail]

/-! ### Free contents -/

theorem Cells.wf_freeFrom {m : Cells w} (h : Cells.wf m) (lo hi : Nat)
    (free : List (Nat × BitVec w)) : Cells.wf (Cells.freeFrom lo hi m free) := by
  unfold Cells.freeFrom
  have h0 := Cells.wf_filter h (fun c => c.1 < lo)
  generalize m.filter (fun c => c.1 < lo) = n at h0
  induction free generalizing n with
  | nil => exact h0
  | cons c free ih =>
    rw [List.foldl_cons]
    apply ih
    split
    · exact Cells.wf_set h0 _ _
    · exact h0

/-- The cells below `lo` are kept. -/
theorem Cells.get_freeFrom_of_lt (lo hi : Nat) (m : Cells w) (free : List (Nat × BitVec w))
    {a : Nat} (ha : a < lo) : Cells.get (Cells.freeFrom lo hi m free) a = Cells.get m a := by
  have key : ∀ n : Cells w, Cells.get (free.foldl
      (fun m c => if lo ≤ c.1 ∧ c.1 < hi then Cells.set m c.1 c.2 else m) n) a = Cells.get n a := by
    induction free with
    | nil => intro n; rfl
    | cons c free ih =>
      intro n
      rw [List.foldl_cons, ih]
      split
      · exact Cells.get_set_ne n _ (by omega)
      · rfl
  unfold Cells.freeFrom
  rw [key, Cells.get_filter_lt, if_pos ha]

/-- The cells from `hi` on are 0. -/
theorem Cells.get_freeFrom_of_ge (lo hi : Nat) (m : Cells w) (free : List (Nat × BitVec w))
    {a : Nat} (hlo : lo ≤ a) (ha : hi ≤ a) : Cells.get (Cells.freeFrom lo hi m free) a = 0 := by
  have key : ∀ n : Cells w, Cells.get n a = 0 → Cells.get (free.foldl
      (fun m c => if lo ≤ c.1 ∧ c.1 < hi then Cells.set m c.1 c.2 else m) n) a = 0 := by
    induction free with
    | nil => intro n hn; exact hn
    | cons c free ih =>
      intro n hn
      rw [List.foldl_cons]
      apply ih
      split
      · rwa [Cells.get_set_ne n _ (by omega)]
      · exact hn
  unfold Cells.freeFrom
  exact key _ (by rw [Cells.get_filter_lt, if_neg (by omega)])

end Sys2Proof.Machine
end

