-- ==== Sys2Proof/Laws/State.lean ====
section
/-! SUPPORT. Each update of State, field by field: what it writes and what it leaves. -/

namespace Sys2Proof.Machine

/-! ### raiseError -/

@[simp] theorem raiseError_params (c : ErrCode) (o e f : Word) (s : State) :
    (raiseError c o e f s).params = s.params := rfl
@[simp] theorem raiseError_state (c : ErrCode) (o e f : Word) (s : State) :
    (raiseError c o e f s).state = .error := rfl
@[simp] theorem raiseError_rowValid (c : ErrCode) (o e f : Word) (s : State) :
    (raiseError c o e f s).rowValid = false := rfl
@[simp] theorem raiseError_err (c : ErrCode) (o e f : Word) (s : State) :
    (raiseError c o e f s).err = { code := errWord c, offset := o, expected := e, found := f } := rfl
@[simp] theorem raiseError_cfg (c : ErrCode) (o e f : Word) (s : State) :
    (raiseError c o e f s).cfg = s.cfg := rfl
@[simp] theorem raiseError_latch (c : ErrCode) (o e f : Word) (s : State) :
    (raiseError c o e f s).latch = s.latch := rfl
@[simp] theorem raiseError_row (c : ErrCode) (o e f : Word) (s : State) :
    (raiseError c o e f s).row = s.row := rfl
@[simp] theorem raiseError_cursor (c : ErrCode) (o e f : Word) (s : State) :
    (raiseError c o e f s).cursor = s.cursor := rfl
@[simp] theorem raiseError_pal (c : ErrCode) (o e f : Word) (s : State) :
    (raiseError c o e f s).pal = s.pal := rfl
@[simp] theorem raiseError_palWritten (c : ErrCode) (o e f : Word) (s : State) :
    (raiseError c o e f s).palWritten = s.palWritten := rfl
@[simp] theorem raiseError_scr (c : ErrCode) (o e f : Word) (s : State) :
    (raiseError c o e f s).scr = freeScr (if s.state = .busy then s.outcnt else 0) s := rfl
@[simp] theorem raiseError_acc (c : ErrCode) (o e f : Word) (s : State) :
    (raiseError c o e f s).acc = [] := rfl
@[simp] theorem raiseError_rb (c : ErrCode) (o e f : Word) (s : State) :
    (raiseError c o e f s).rb = s.rb := rfl
@[simp] theorem raiseError_outcnt (c : ErrCode) (o e f : Word) (s : State) :
    (raiseError c o e f s).outcnt = s.outcnt := rfl
@[simp] theorem raiseError_phase (c : ErrCode) (o e f : Word) (s : State) :
    (raiseError c o e f s).phase = .idle := rfl
@[simp] theorem raiseError_ctrlOff (c : ErrCode) (o e f : Word) (s : State) :
    (raiseError c o e f s).ctrlOff = s.ctrlOff := rfl
@[simp] theorem raiseError_stepCursor (c : ErrCode) (o e f : Word) (s : State) :
    (raiseError c o e f s).stepCursor = s.stepCursor := rfl
@[simp] theorem raiseError_inp (c : ErrCode) (o e f : Word) (s : State) :
    (raiseError c o e f s).inp = s.inp := rfl
@[simp] theorem raiseError_touched (c : ErrCode) (o e f : Word) (s : State) :
    (raiseError c o e f s).touched = s.touched := rfl
@[simp] theorem raiseError_out (c : ErrCode) (o e f : Word) (s : State) :
    (raiseError c o e f s).out = s.out := rfl
@[simp] theorem raiseError_sinkReady (c : ErrCode) (o e f : Word) (s : State) :
    (raiseError c o e f s).sinkReady = s.sinkReady := rfl
@[simp] theorem raiseError_inputs (c : ErrCode) (o e f : Word) (s : State) :
    (raiseError c o e f s).inputs = s.inputs := rfl
@[simp] theorem raiseError_reads (c : ErrCode) (o e f : Word) (s : State) :
    (raiseError c o e f s).reads = s.reads := rfl
@[simp] theorem raiseError_draws (c : ErrCode) (o e f : Word) (s : State) :
    (raiseError c o e f s).draws = s.draws + 1 := rfl

/-! ### advance -/

@[simp] theorem advance_params (d : Bool) (s : State) :
    (advance d s).params = s.params := rfl
@[simp] theorem advance_state (d : Bool) (s : State) :
    (advance d s).state = s.state := rfl
@[simp] theorem advance_rowValid (d : Bool) (s : State) :
    (advance d s).rowValid = s.rowValid := rfl
@[simp] theorem advance_err (d : Bool) (s : State) :
    (advance d s).err = s.err := rfl
@[simp] theorem advance_cfg (d : Bool) (s : State) :
    (advance d s).cfg = s.cfg := rfl
@[simp] theorem advance_latch (d : Bool) (s : State) :
    (advance d s).latch = s.latch := rfl
@[simp] theorem advance_row (d : Bool) (s : State) :
    (advance d s).row = s.row := rfl
@[simp] theorem advance_cursor (d : Bool) (s : State) :
    (advance d s).cursor = s.cursor + 1 := rfl
@[simp] theorem advance_pal (d : Bool) (s : State) :
    (advance d s).pal = s.pal := rfl
@[simp] theorem advance_palWritten (d : Bool) (s : State) :
    (advance d s).palWritten = s.palWritten := rfl
@[simp] theorem advance_scr (d : Bool) (s : State) :
    (advance d s).scr = s.scr := rfl
@[simp] theorem advance_acc (d : Bool) (s : State) :
    (advance d s).acc = s.acc := rfl
@[simp] theorem advance_rb (d : Bool) (s : State) :
    (advance d s).rb = s.rb := rfl
@[simp] theorem advance_outcnt (d : Bool) (s : State) :
    (advance d s).outcnt = s.outcnt := rfl
@[simp] theorem advance_phase (d : Bool) (s : State) :
    (advance d s).phase = s.phase := rfl
@[simp] theorem advance_ctrlOff (d : Bool) (s : State) :
    (advance d s).ctrlOff = s.ctrlOff := rfl
@[simp] theorem advance_stepCursor (d : Bool) (s : State) :
    (advance d s).stepCursor = s.stepCursor := rfl
@[simp] theorem advance_inp (d : Bool) (s : State) :
    (advance d s).inp = s.inp := rfl
@[simp] theorem advance_touched (d : Bool) (s : State) :
    (advance d s).touched = s.touched := rfl
@[simp] theorem advance_out (d : Bool) (s : State) :
    (advance d s).out = s.out := rfl
@[simp] theorem advance_sinkReady (d : Bool) (s : State) :
    (advance d s).sinkReady = s.sinkReady := rfl
@[simp] theorem advance_inputs (d : Bool) (s : State) :
    (advance d s).inputs = s.inputs := rfl
@[simp] theorem advance_reads (d : Bool) (s : State) :
    (advance d s).reads = s.reads := rfl
@[simp] theorem advance_draws (d : Bool) (s : State) :
    (advance d s).draws = if d then s.draws + 1 else s.draws := rfl

/-! ### scrPush -/

@[simp] theorem scrPush_params (v : Byte) (s : State) :
    (scrPush v s).params = s.params := rfl
@[simp] theorem scrPush_state (v : Byte) (s : State) :
    (scrPush v s).state = s.state := rfl
@[simp] theorem scrPush_rowValid (v : Byte) (s : State) :
    (scrPush v s).rowValid = s.rowValid := rfl
@[simp] theorem scrPush_err (v : Byte) (s : State) :
    (scrPush v s).err = s.err := rfl
@[simp] theorem scrPush_cfg (v : Byte) (s : State) :
    (scrPush v s).cfg = s.cfg := rfl
@[simp] theorem scrPush_latch (v : Byte) (s : State) :
    (scrPush v s).latch = s.latch := rfl
@[simp] theorem scrPush_row (v : Byte) (s : State) :
    (scrPush v s).row = s.row := rfl
@[simp] theorem scrPush_cursor (v : Byte) (s : State) :
    (scrPush v s).cursor = s.cursor := rfl
@[simp] theorem scrPush_pal (v : Byte) (s : State) :
    (scrPush v s).pal = s.pal := rfl
@[simp] theorem scrPush_palWritten (v : Byte) (s : State) :
    (scrPush v s).palWritten = s.palWritten := rfl
@[simp] theorem scrPush_scr (v : Byte) (s : State) :
    (scrPush v s).scr = Cells.set (w := 8) s.scr s.outcnt v := rfl
@[simp] theorem scrPush_acc (v : Byte) (s : State) :
    (scrPush v s).acc = s.acc := rfl
@[simp] theorem scrPush_rb (v : Byte) (s : State) :
    (scrPush v s).rb = s.rb := rfl
@[simp] theorem scrPush_outcnt (v : Byte) (s : State) :
    (scrPush v s).outcnt = s.outcnt + 1 := rfl
@[simp] theorem scrPush_phase (v : Byte) (s : State) :
    (scrPush v s).phase = s.phase := rfl
@[simp] theorem scrPush_ctrlOff (v : Byte) (s : State) :
    (scrPush v s).ctrlOff = s.ctrlOff := rfl
@[simp] theorem scrPush_stepCursor (v : Byte) (s : State) :
    (scrPush v s).stepCursor = s.stepCursor := rfl
@[simp] theorem scrPush_inp (v : Byte) (s : State) :
    (scrPush v s).inp = s.inp := rfl
@[simp] theorem scrPush_touched (v : Byte) (s : State) :
    (scrPush v s).touched = s.touched := rfl
@[simp] theorem scrPush_out (v : Byte) (s : State) :
    (scrPush v s).out = s.out := rfl
@[simp] theorem scrPush_sinkReady (v : Byte) (s : State) :
    (scrPush v s).sinkReady = s.sinkReady := rfl
@[simp] theorem scrPush_inputs (v : Byte) (s : State) :
    (scrPush v s).inputs = s.inputs := rfl
@[simp] theorem scrPush_reads (v : Byte) (s : State) :
    (scrPush v s).reads = s.reads := rfl
@[simp] theorem scrPush_draws (v : Byte) (s : State) :
    (scrPush v s).draws = s.draws := rfl

/-! ### openSession -/

@[simp] theorem openSession_params (s : State) :
    (openSession s).params = s.params := rfl
@[simp] theorem openSession_state (s : State) :
    (openSession s).state = s.state := rfl
@[simp] theorem openSession_rowValid (s : State) :
    (openSession s).rowValid = false := rfl
@[simp] theorem openSession_err (s : State) :
    (openSession s).err = { code := 0, offset := 0, expected := 0, found := 0 } := rfl
@[simp] theorem openSession_cfg (s : State) :
    (openSession s).cfg = s.cfg := rfl
@[simp] theorem openSession_latch (s : State) :
    (openSession s).latch = latchOf s.cfg := rfl
@[simp] theorem openSession_row (s : State) :
    (openSession s).row = 0 := rfl
@[simp] theorem openSession_cursor (s : State) :
    (openSession s).cursor = 0 := rfl
@[simp] theorem openSession_pal (s : State) :
    (openSession s).pal = s.pal := rfl
@[simp] theorem openSession_palWritten (s : State) :
    (openSession s).palWritten = s.palWritten := rfl
@[simp] theorem openSession_scr (s : State) :
    (openSession s).scr = freeScr 0 s := rfl
@[simp] theorem openSession_acc (s : State) :
    (openSession s).acc = [] := rfl
@[simp] theorem openSession_rb (s : State) :
    (openSession s).rb = s.rb := rfl
@[simp] theorem openSession_outcnt (s : State) :
    (openSession s).outcnt = s.outcnt := rfl
@[simp] theorem openSession_phase (s : State) :
    (openSession s).phase = s.phase := rfl
@[simp] theorem openSession_ctrlOff (s : State) :
    (openSession s).ctrlOff = s.ctrlOff := rfl
@[simp] theorem openSession_stepCursor (s : State) :
    (openSession s).stepCursor = s.stepCursor := rfl
@[simp] theorem openSession_inp (s : State) :
    (openSession s).inp = s.inp := rfl
@[simp] theorem openSession_touched (s : State) :
    (openSession s).touched = [] := rfl
@[simp] theorem openSession_out (s : State) :
    (openSession s).out = s.out := rfl
@[simp] theorem openSession_sinkReady (s : State) :
    (openSession s).sinkReady = s.sinkReady := rfl
@[simp] theorem openSession_inputs (s : State) :
    (openSession s).inputs = s.inputs := rfl
@[simp] theorem openSession_reads (s : State) :
    (openSession s).reads = s.reads := rfl
@[simp] theorem openSession_draws (s : State) :
    (openSession s).draws = s.draws + 1 := rfl

/-! ### sessionReady -/

@[simp] theorem sessionReady_params (s : State) :
    (sessionReady s).params = s.params := rfl
@[simp] theorem sessionReady_state (s : State) :
    (sessionReady s).state = if s.latch.height = 0 then .done else .ready := rfl
@[simp] theorem sessionReady_rowValid (s : State) :
    (sessionReady s).rowValid = s.rowValid := rfl
@[simp] theorem sessionReady_err (s : State) :
    (sessionReady s).err = s.err := rfl
@[simp] theorem sessionReady_cfg (s : State) :
    (sessionReady s).cfg = s.cfg := rfl
@[simp] theorem sessionReady_latch (s : State) :
    (sessionReady s).latch = s.latch := rfl
@[simp] theorem sessionReady_row (s : State) :
    (sessionReady s).row = s.row := rfl
@[simp] theorem sessionReady_cursor (s : State) :
    (sessionReady s).cursor = s.cursor := rfl
@[simp] theorem sessionReady_pal (s : State) :
    (sessionReady s).pal = s.pal := rfl
@[simp] theorem sessionReady_palWritten (s : State) :
    (sessionReady s).palWritten = s.palWritten := rfl
@[simp] theorem sessionReady_scr (s : State) :
    (sessionReady s).scr = s.scr := rfl
@[simp] theorem sessionReady_acc (s : State) :
    (sessionReady s).acc = s.acc := rfl
@[simp] theorem sessionReady_rb (s : State) :
    (sessionReady s).rb = s.rb := rfl
@[simp] theorem sessionReady_outcnt (s : State) :
    (sessionReady s).outcnt = s.outcnt := rfl
@[simp] theorem sessionReady_phase (s : State) :
    (sessionReady s).phase = s.phase := rfl
@[simp] theorem sessionReady_ctrlOff (s : State) :
    (sessionReady s).ctrlOff = s.ctrlOff := rfl
@[simp] theorem sessionReady_stepCursor (s : State) :
    (sessionReady s).stepCursor = s.stepCursor := rfl
@[simp] theorem sessionReady_inp (s : State) :
    (sessionReady s).inp = s.inp := rfl
@[simp] theorem sessionReady_touched (s : State) :
    (sessionReady s).touched = s.touched := rfl
@[simp] theorem sessionReady_out (s : State) :
    (sessionReady s).out = s.out := rfl
@[simp] theorem sessionReady_sinkReady (s : State) :
    (sessionReady s).sinkReady = s.sinkReady := rfl
@[simp] theorem sessionReady_inputs (s : State) :
    (sessionReady s).inputs = s.inputs := rfl
@[simp] theorem sessionReady_reads (s : State) :
    (sessionReady s).reads = s.reads := rfl
@[simp] theorem sessionReady_draws (s : State) :
    (sessionReady s).draws = s.draws := rfl

/-! ### acceptStep -/

@[simp] theorem acceptStep_params (s : State) :
    (acceptStep s).params = s.params := rfl
@[simp] theorem acceptStep_state (s : State) :
    (acceptStep s).state = .busy := rfl
@[simp] theorem acceptStep_rowValid (s : State) :
    (acceptStep s).rowValid = false := rfl
@[simp] theorem acceptStep_err (s : State) :
    (acceptStep s).err = s.err := rfl
@[simp] theorem acceptStep_cfg (s : State) :
    (acceptStep s).cfg = s.cfg := rfl
@[simp] theorem acceptStep_latch (s : State) :
    (acceptStep s).latch = s.latch := rfl
@[simp] theorem acceptStep_row (s : State) :
    (acceptStep s).row = s.row := rfl
@[simp] theorem acceptStep_cursor (s : State) :
    (acceptStep s).cursor = s.cursor := rfl
@[simp] theorem acceptStep_pal (s : State) :
    (acceptStep s).pal = s.pal := rfl
@[simp] theorem acceptStep_palWritten (s : State) :
    (acceptStep s).palWritten = s.palWritten := rfl
@[simp] theorem acceptStep_scr (s : State) :
    (acceptStep s).scr = s.scr := rfl
@[simp] theorem acceptStep_acc (s : State) :
    (acceptStep s).acc = s.acc := rfl
@[simp] theorem acceptStep_rb (s : State) :
    (acceptStep s).rb = s.rb := rfl
@[simp] theorem acceptStep_outcnt (s : State) :
    (acceptStep s).outcnt = s.outcnt := rfl
@[simp] theorem acceptStep_phase (s : State) :
    (acceptStep s).phase = .enabled := rfl
@[simp] theorem acceptStep_ctrlOff (s : State) :
    (acceptStep s).ctrlOff = s.ctrlOff := rfl
@[simp] theorem acceptStep_stepCursor (s : State) :
    (acceptStep s).stepCursor = s.cursor := rfl
@[simp] theorem acceptStep_inp (s : State) :
    (acceptStep s).inp = s.inp := rfl
@[simp] theorem acceptStep_touched (s : State) :
    (acceptStep s).touched = s.touched := rfl
@[simp] theorem acceptStep_out (s : State) :
    (acceptStep s).out = s.out := rfl
@[simp] theorem acceptStep_sinkReady (s : State) :
    (acceptStep s).sinkReady = s.sinkReady := rfl
@[simp] theorem acceptStep_inputs (s : State) :
    (acceptStep s).inputs = s.inputs := rfl
@[simp] theorem acceptStep_reads (s : State) :
    (acceptStep s).reads = s.reads := rfl
@[simp] theorem acceptStep_draws (s : State) :
    (acceptStep s).draws = s.draws := rfl

/-! ### closeSession -/

@[simp] theorem closeSession_params (s : State) :
    (closeSession s).params = s.params := rfl
@[simp] theorem closeSession_state (s : State) :
    (closeSession s).state = .idle := rfl
@[simp] theorem closeSession_rowValid (s : State) :
    (closeSession s).rowValid = false := rfl
@[simp] theorem closeSession_err (s : State) :
    (closeSession s).err = s.err := rfl
@[simp] theorem closeSession_cfg (s : State) :
    (closeSession s).cfg = s.cfg := rfl
@[simp] theorem closeSession_latch (s : State) :
    (closeSession s).latch = s.latch := rfl
@[simp] theorem closeSession_row (s : State) :
    (closeSession s).row = s.row := rfl
@[simp] theorem closeSession_cursor (s : State) :
    (closeSession s).cursor = abortCursor s := rfl
@[simp] theorem closeSession_pal (s : State) :
    (closeSession s).pal = s.pal := rfl
@[simp] theorem closeSession_palWritten (s : State) :
    (closeSession s).palWritten = s.palWritten := rfl
@[simp] theorem closeSession_scr (s : State) :
    (closeSession s).scr = freeScr 0 s := rfl
@[simp] theorem closeSession_acc (s : State) :
    (closeSession s).acc = freeAcc s := rfl
@[simp] theorem closeSession_rb (s : State) :
    (closeSession s).rb = s.rb := rfl
@[simp] theorem closeSession_outcnt (s : State) :
    (closeSession s).outcnt = s.outcnt := rfl
@[simp] theorem closeSession_phase (s : State) :
    (closeSession s).phase = .idle := rfl
@[simp] theorem closeSession_ctrlOff (s : State) :
    (closeSession s).ctrlOff = s.ctrlOff := rfl
@[simp] theorem closeSession_stepCursor (s : State) :
    (closeSession s).stepCursor = s.stepCursor := rfl
@[simp] theorem closeSession_inp (s : State) :
    (closeSession s).inp = s.inp := rfl
@[simp] theorem closeSession_touched (s : State) :
    (closeSession s).touched = s.touched := rfl
@[simp] theorem closeSession_out (s : State) :
    (closeSession s).out = s.out := rfl
@[simp] theorem closeSession_sinkReady (s : State) :
    (closeSession s).sinkReady = s.sinkReady := rfl
@[simp] theorem closeSession_inputs (s : State) :
    (closeSession s).inputs = s.inputs := rfl
@[simp] theorem closeSession_reads (s : State) :
    (closeSession s).reads = s.reads := rfl
@[simp] theorem closeSession_draws (s : State) :
    (closeSession s).draws = s.draws + 1 := rfl

/-! ### deinterleave -/

@[simp] theorem deinterleave_params (s : State) :
    (deinterleave s).params = s.params := rfl
@[simp] theorem deinterleave_state (s : State) :
    (deinterleave s).state = s.state := rfl
@[simp] theorem deinterleave_rowValid (s : State) :
    (deinterleave s).rowValid = s.rowValid := rfl
@[simp] theorem deinterleave_err (s : State) :
    (deinterleave s).err = s.err := rfl
@[simp] theorem deinterleave_cfg (s : State) :
    (deinterleave s).cfg = s.cfg := rfl
@[simp] theorem deinterleave_latch (s : State) :
    (deinterleave s).latch = s.latch := rfl
@[simp] theorem deinterleave_row (s : State) :
    (deinterleave s).row = s.row := rfl
@[simp] theorem deinterleave_cursor (s : State) :
    (deinterleave s).cursor = s.cursor := rfl
@[simp] theorem deinterleave_pal (s : State) :
    (deinterleave s).pal = s.pal := rfl
@[simp] theorem deinterleave_palWritten (s : State) :
    (deinterleave s).palWritten = s.palWritten := rfl
@[simp] theorem deinterleave_scr (s : State) :
    (deinterleave s).scr = s.scr := rfl
@[simp] theorem deinterleave_acc (s : State) :
    (deinterleave s).acc = deinterleaved s := rfl
@[simp] theorem deinterleave_rb (s : State) :
    (deinterleave s).rb = s.rb := rfl
@[simp] theorem deinterleave_outcnt (s : State) :
    (deinterleave s).outcnt = s.outcnt := rfl
@[simp] theorem deinterleave_phase (s : State) :
    (deinterleave s).phase = .resolve := rfl
@[simp] theorem deinterleave_ctrlOff (s : State) :
    (deinterleave s).ctrlOff = s.ctrlOff := rfl
@[simp] theorem deinterleave_stepCursor (s : State) :
    (deinterleave s).stepCursor = s.stepCursor := rfl
@[simp] theorem deinterleave_inp (s : State) :
    (deinterleave s).inp = s.inp := rfl
@[simp] theorem deinterleave_touched (s : State) :
    (deinterleave s).touched = s.touched := rfl
@[simp] theorem deinterleave_out (s : State) :
    (deinterleave s).out = s.out := rfl
@[simp] theorem deinterleave_sinkReady (s : State) :
    (deinterleave s).sinkReady = s.sinkReady := rfl
@[simp] theorem deinterleave_inputs (s : State) :
    (deinterleave s).inputs = s.inputs := rfl
@[simp] theorem deinterleave_reads (s : State) :
    (deinterleave s).reads = s.reads := rfl
@[simp] theorem deinterleave_draws (s : State) :
    (deinterleave s).draws = s.draws := rfl

/-! ### writePixel -/

@[simp] theorem writePixel_params (x : Nat) (px : List Byte) (s : State) :
    (writePixel x px s).params = s.params := rfl
@[simp] theorem writePixel_state (x : Nat) (px : List Byte) (s : State) :
    (writePixel x px s).state = s.state := rfl
@[simp] theorem writePixel_rowValid (x : Nat) (px : List Byte) (s : State) :
    (writePixel x px s).rowValid = s.rowValid := rfl
@[simp] theorem writePixel_err (x : Nat) (px : List Byte) (s : State) :
    (writePixel x px s).err = s.err := rfl
@[simp] theorem writePixel_cfg (x : Nat) (px : List Byte) (s : State) :
    (writePixel x px s).cfg = s.cfg := rfl
@[simp] theorem writePixel_latch (x : Nat) (px : List Byte) (s : State) :
    (writePixel x px s).latch = s.latch := rfl
@[simp] theorem writePixel_row (x : Nat) (px : List Byte) (s : State) :
    (writePixel x px s).row = s.row := rfl
@[simp] theorem writePixel_cursor (x : Nat) (px : List Byte) (s : State) :
    (writePixel x px s).cursor = s.cursor := rfl
@[simp] theorem writePixel_pal (x : Nat) (px : List Byte) (s : State) :
    (writePixel x px s).pal = s.pal := rfl
@[simp] theorem writePixel_palWritten (x : Nat) (px : List Byte) (s : State) :
    (writePixel x px s).palWritten = s.palWritten := rfl
@[simp] theorem writePixel_scr (x : Nat) (px : List Byte) (s : State) :
    (writePixel x px s).scr = s.scr := rfl
@[simp] theorem writePixel_acc (x : Nat) (px : List Byte) (s : State) :
    (writePixel x px s).acc = s.acc := rfl
@[simp] theorem writePixel_rb (x : Nat) (px : List Byte) (s : State) :
    (writePixel x px s).rb = Cells.setRange (w := 8) s.rb (4 * x) px := rfl
@[simp] theorem writePixel_outcnt (x : Nat) (px : List Byte) (s : State) :
    (writePixel x px s).outcnt = s.outcnt := rfl
@[simp] theorem writePixel_phase (x : Nat) (px : List Byte) (s : State) :
    (writePixel x px s).phase = s.phase := rfl
@[simp] theorem writePixel_ctrlOff (x : Nat) (px : List Byte) (s : State) :
    (writePixel x px s).ctrlOff = s.ctrlOff := rfl
@[simp] theorem writePixel_stepCursor (x : Nat) (px : List Byte) (s : State) :
    (writePixel x px s).stepCursor = s.stepCursor := rfl
@[simp] theorem writePixel_inp (x : Nat) (px : List Byte) (s : State) :
    (writePixel x px s).inp = s.inp := rfl
@[simp] theorem writePixel_touched (x : Nat) (px : List Byte) (s : State) :
    (writePixel x px s).touched = s.touched := rfl
@[simp] theorem writePixel_out (x : Nat) (px : List Byte) (s : State) :
    (writePixel x px s).out = s.out := rfl
@[simp] theorem writePixel_sinkReady (x : Nat) (px : List Byte) (s : State) :
    (writePixel x px s).sinkReady = s.sinkReady := rfl
@[simp] theorem writePixel_inputs (x : Nat) (px : List Byte) (s : State) :
    (writePixel x px s).inputs = s.inputs := rfl
@[simp] theorem writePixel_reads (x : Nat) (px : List Byte) (s : State) :
    (writePixel x px s).reads = s.reads := rfl
@[simp] theorem writePixel_draws (x : Nat) (px : List Byte) (s : State) :
    (writePixel x px s).draws = s.draws := rfl

/-! ### clearCell -/

@[simp] theorem clearCell_params (x : Nat) (s : State) :
    (clearCell x s).params = s.params := rfl
@[simp] theorem clearCell_state (x : Nat) (s : State) :
    (clearCell x s).state = s.state := rfl
@[simp] theorem clearCell_rowValid (x : Nat) (s : State) :
    (clearCell x s).rowValid = s.rowValid := rfl
@[simp] theorem clearCell_err (x : Nat) (s : State) :
    (clearCell x s).err = s.err := rfl
@[simp] theorem clearCell_cfg (x : Nat) (s : State) :
    (clearCell x s).cfg = s.cfg := rfl
@[simp] theorem clearCell_latch (x : Nat) (s : State) :
    (clearCell x s).latch = s.latch := rfl
@[simp] theorem clearCell_row (x : Nat) (s : State) :
    (clearCell x s).row = s.row := rfl
@[simp] theorem clearCell_cursor (x : Nat) (s : State) :
    (clearCell x s).cursor = s.cursor := rfl
@[simp] theorem clearCell_pal (x : Nat) (s : State) :
    (clearCell x s).pal = s.pal := rfl
@[simp] theorem clearCell_palWritten (x : Nat) (s : State) :
    (clearCell x s).palWritten = s.palWritten := rfl
@[simp] theorem clearCell_scr (x : Nat) (s : State) :
    (clearCell x s).scr = s.scr := rfl
@[simp] theorem clearCell_acc (x : Nat) (s : State) :
    (clearCell x s).acc = Cells.set s.acc x 0 := rfl
@[simp] theorem clearCell_rb (x : Nat) (s : State) :
    (clearCell x s).rb = s.rb := rfl
@[simp] theorem clearCell_outcnt (x : Nat) (s : State) :
    (clearCell x s).outcnt = s.outcnt := rfl
@[simp] theorem clearCell_phase (x : Nat) (s : State) :
    (clearCell x s).phase = s.phase := rfl
@[simp] theorem clearCell_ctrlOff (x : Nat) (s : State) :
    (clearCell x s).ctrlOff = s.ctrlOff := rfl
@[simp] theorem clearCell_stepCursor (x : Nat) (s : State) :
    (clearCell x s).stepCursor = s.stepCursor := rfl
@[simp] theorem clearCell_inp (x : Nat) (s : State) :
    (clearCell x s).inp = s.inp := rfl
@[simp] theorem clearCell_touched (x : Nat) (s : State) :
    (clearCell x s).touched = s.touched := rfl
@[simp] theorem clearCell_out (x : Nat) (s : State) :
    (clearCell x s).out = s.out := rfl
@[simp] theorem clearCell_sinkReady (x : Nat) (s : State) :
    (clearCell x s).sinkReady = s.sinkReady := rfl
@[simp] theorem clearCell_inputs (x : Nat) (s : State) :
    (clearCell x s).inputs = s.inputs := rfl
@[simp] theorem clearCell_reads (x : Nat) (s : State) :
    (clearCell x s).reads = s.reads := rfl
@[simp] theorem clearCell_draws (x : Nat) (s : State) :
    (clearCell x s).draws = s.draws := rfl

/-! ### rowResolved -/

@[simp] theorem rowResolved_params (s : State) :
    (rowResolved s).params = s.params := rfl
@[simp] theorem rowResolved_state (s : State) :
    (rowResolved s).state = s.state := rfl
@[simp] theorem rowResolved_rowValid (s : State) :
    (rowResolved s).rowValid = s.rowValid := rfl
@[simp] theorem rowResolved_err (s : State) :
    (rowResolved s).err = s.err := rfl
@[simp] theorem rowResolved_cfg (s : State) :
    (rowResolved s).cfg = s.cfg := rfl
@[simp] theorem rowResolved_latch (s : State) :
    (rowResolved s).latch = s.latch := rfl
@[simp] theorem rowResolved_row (s : State) :
    (rowResolved s).row = s.row := rfl
@[simp] theorem rowResolved_cursor (s : State) :
    (rowResolved s).cursor = s.cursor := rfl
@[simp] theorem rowResolved_pal (s : State) :
    (rowResolved s).pal = s.pal := rfl
@[simp] theorem rowResolved_palWritten (s : State) :
    (rowResolved s).palWritten = s.palWritten := rfl
@[simp] theorem rowResolved_scr (s : State) :
    (rowResolved s).scr = s.scr := rfl
@[simp] theorem rowResolved_acc (s : State) :
    (rowResolved s).acc = s.acc := rfl
@[simp] theorem rowResolved_rb (s : State) :
    (rowResolved s).rb = s.rb := rfl
@[simp] theorem rowResolved_outcnt (s : State) :
    (rowResolved s).outcnt = s.outcnt := rfl
@[simp] theorem rowResolved_phase (s : State) :
    (rowResolved s).phase = .handoff := rfl
@[simp] theorem rowResolved_ctrlOff (s : State) :
    (rowResolved s).ctrlOff = s.ctrlOff := rfl
@[simp] theorem rowResolved_stepCursor (s : State) :
    (rowResolved s).stepCursor = s.stepCursor := rfl
@[simp] theorem rowResolved_inp (s : State) :
    (rowResolved s).inp = s.inp := rfl
@[simp] theorem rowResolved_touched (s : State) :
    (rowResolved s).touched = s.touched := rfl
@[simp] theorem rowResolved_out (s : State) :
    (rowResolved s).out = s.out := rfl
@[simp] theorem rowResolved_sinkReady (s : State) :
    (rowResolved s).sinkReady = s.sinkReady := rfl
@[simp] theorem rowResolved_inputs (s : State) :
    (rowResolved s).inputs = s.inputs := rfl
@[simp] theorem rowResolved_reads (s : State) :
    (rowResolved s).reads = s.reads := rfl
@[simp] theorem rowResolved_draws (s : State) :
    (rowResolved s).draws = s.draws := rfl

/-! ### handoff -/

@[simp] theorem handoff_params (s : State) :
    (handoff s).params = s.params := rfl
@[simp] theorem handoff_state (s : State) :
    (handoff s).state = if s.row + 1 = s.latch.height then .done else .ready := rfl
@[simp] theorem handoff_rowValid (s : State) :
    (handoff s).rowValid = true := rfl
@[simp] theorem handoff_err (s : State) :
    (handoff s).err = s.err := rfl
@[simp] theorem handoff_cfg (s : State) :
    (handoff s).cfg = s.cfg := rfl
@[simp] theorem handoff_latch (s : State) :
    (handoff s).latch = s.latch := rfl
@[simp] theorem handoff_row (s : State) :
    (handoff s).row = s.row + 1 := rfl
@[simp] theorem handoff_cursor (s : State) :
    (handoff s).cursor = s.cursor := rfl
@[simp] theorem handoff_pal (s : State) :
    (handoff s).pal = s.pal := rfl
@[simp] theorem handoff_palWritten (s : State) :
    (handoff s).palWritten = s.palWritten := rfl
@[simp] theorem handoff_scr (s : State) :
    (handoff s).scr = s.scr := rfl
@[simp] theorem handoff_acc (s : State) :
    (handoff s).acc = s.acc := rfl
@[simp] theorem handoff_rb (s : State) :
    (handoff s).rb = s.rb := rfl
@[simp] theorem handoff_outcnt (s : State) :
    (handoff s).outcnt = s.outcnt := rfl
@[simp] theorem handoff_phase (s : State) :
    (handoff s).phase = .idle := rfl
@[simp] theorem handoff_ctrlOff (s : State) :
    (handoff s).ctrlOff = s.ctrlOff := rfl
@[simp] theorem handoff_stepCursor (s : State) :
    (handoff s).stepCursor = s.stepCursor := rfl
@[simp] theorem handoff_inp (s : State) :
    (handoff s).inp = s.inp := rfl
@[simp] theorem handoff_touched (s : State) :
    (handoff s).touched = s.touched := rfl
@[simp] theorem handoff_out (s : State) :
    (handoff s).out = { y := s.row, bytes := rowBytes s } :: s.out := rfl
@[simp] theorem handoff_sinkReady (s : State) :
    (handoff s).sinkReady = s.sinkReady := rfl
@[simp] theorem handoff_inputs (s : State) :
    (handoff s).inputs = s.inputs := rfl
@[simp] theorem handoff_reads (s : State) :
    (handoff s).reads = s.reads := rfl
@[simp] theorem handoff_draws (s : State) :
    (handoff s).draws = s.draws := rfl

/-! ### drawn -/

@[simp] theorem drawn_params (s : State) :
    (drawn s).params = s.params := rfl
@[simp] theorem drawn_state (s : State) :
    (drawn s).state = s.state := rfl
@[simp] theorem drawn_rowValid (s : State) :
    (drawn s).rowValid = s.rowValid := rfl
@[simp] theorem drawn_err (s : State) :
    (drawn s).err = s.err := rfl
@[simp] theorem drawn_cfg (s : State) :
    (drawn s).cfg = s.cfg := rfl
@[simp] theorem drawn_latch (s : State) :
    (drawn s).latch = s.latch := rfl
@[simp] theorem drawn_row (s : State) :
    (drawn s).row = s.row := rfl
@[simp] theorem drawn_cursor (s : State) :
    (drawn s).cursor = s.cursor := rfl
@[simp] theorem drawn_pal (s : State) :
    (drawn s).pal = s.pal := rfl
@[simp] theorem drawn_palWritten (s : State) :
    (drawn s).palWritten = s.palWritten := rfl
@[simp] theorem drawn_scr (s : State) :
    (drawn s).scr = s.scr := rfl
@[simp] theorem drawn_acc (s : State) :
    (drawn s).acc = s.acc := rfl
@[simp] theorem drawn_rb (s : State) :
    (drawn s).rb = s.rb := rfl
@[simp] theorem drawn_outcnt (s : State) :
    (drawn s).outcnt = s.outcnt := rfl
@[simp] theorem drawn_phase (s : State) :
    (drawn s).phase = s.phase := rfl
@[simp] theorem drawn_ctrlOff (s : State) :
    (drawn s).ctrlOff = s.ctrlOff := rfl
@[simp] theorem drawn_stepCursor (s : State) :
    (drawn s).stepCursor = s.stepCursor := rfl
@[simp] theorem drawn_inp (s : State) :
    (drawn s).inp = s.inp := rfl
@[simp] theorem drawn_touched (s : State) :
    (drawn s).touched = s.touched := rfl
@[simp] theorem drawn_out (s : State) :
    (drawn s).out = s.out := rfl
@[simp] theorem drawn_sinkReady (s : State) :
    (drawn s).sinkReady = s.sinkReady := rfl
@[simp] theorem drawn_inputs (s : State) :
    (drawn s).inputs = s.inputs := rfl
@[simp] theorem drawn_reads (s : State) :
    (drawn s).reads = s.reads := rfl
@[simp] theorem drawn_draws (s : State) :
    (drawn s).draws = s.draws + 1 := rfl

/-! ### deliver -/

@[simp] theorem deliver_params (v : Word) (s : State) :
    (deliver v s).params = s.params := rfl
@[simp] theorem deliver_state (v : Word) (s : State) :
    (deliver v s).state = s.state := rfl
@[simp] theorem deliver_rowValid (v : Word) (s : State) :
    (deliver v s).rowValid = s.rowValid := rfl
@[simp] theorem deliver_err (v : Word) (s : State) :
    (deliver v s).err = s.err := rfl
@[simp] theorem deliver_cfg (v : Word) (s : State) :
    (deliver v s).cfg = s.cfg := rfl
@[simp] theorem deliver_latch (v : Word) (s : State) :
    (deliver v s).latch = s.latch := rfl
@[simp] theorem deliver_row (v : Word) (s : State) :
    (deliver v s).row = s.row := rfl
@[simp] theorem deliver_cursor (v : Word) (s : State) :
    (deliver v s).cursor = s.cursor := rfl
@[simp] theorem deliver_pal (v : Word) (s : State) :
    (deliver v s).pal = s.pal := rfl
@[simp] theorem deliver_palWritten (v : Word) (s : State) :
    (deliver v s).palWritten = s.palWritten := rfl
@[simp] theorem deliver_scr (v : Word) (s : State) :
    (deliver v s).scr = s.scr := rfl
@[simp] theorem deliver_acc (v : Word) (s : State) :
    (deliver v s).acc = s.acc := rfl
@[simp] theorem deliver_rb (v : Word) (s : State) :
    (deliver v s).rb = s.rb := rfl
@[simp] theorem deliver_outcnt (v : Word) (s : State) :
    (deliver v s).outcnt = s.outcnt := rfl
@[simp] theorem deliver_phase (v : Word) (s : State) :
    (deliver v s).phase = s.phase := rfl
@[simp] theorem deliver_ctrlOff (v : Word) (s : State) :
    (deliver v s).ctrlOff = s.ctrlOff := rfl
@[simp] theorem deliver_stepCursor (v : Word) (s : State) :
    (deliver v s).stepCursor = s.stepCursor := rfl
@[simp] theorem deliver_inp (v : Word) (s : State) :
    (deliver v s).inp = s.inp := rfl
@[simp] theorem deliver_touched (v : Word) (s : State) :
    (deliver v s).touched = s.touched := rfl
@[simp] theorem deliver_out (v : Word) (s : State) :
    (deliver v s).out = s.out := rfl
@[simp] theorem deliver_sinkReady (v : Word) (s : State) :
    (deliver v s).sinkReady = s.sinkReady := rfl
@[simp] theorem deliver_inputs (v : Word) (s : State) :
    (deliver v s).inputs = s.inputs := rfl
@[simp] theorem deliver_reads (v : Word) (s : State) :
    (deliver v s).reads = v :: s.reads := rfl
@[simp] theorem deliver_draws (v : Word) (s : State) :
    (deliver v s).draws = s.draws := rfl

/-! ### pokeIn -/

@[simp] theorem pokeIn_params (a : Nat) (b : Byte) (s : State) :
    (pokeIn a b s).params = s.params := rfl
@[simp] theorem pokeIn_state (a : Nat) (b : Byte) (s : State) :
    (pokeIn a b s).state = s.state := rfl
@[simp] theorem pokeIn_rowValid (a : Nat) (b : Byte) (s : State) :
    (pokeIn a b s).rowValid = s.rowValid := rfl
@[simp] theorem pokeIn_err (a : Nat) (b : Byte) (s : State) :
    (pokeIn a b s).err = s.err := rfl
@[simp] theorem pokeIn_cfg (a : Nat) (b : Byte) (s : State) :
    (pokeIn a b s).cfg = s.cfg := rfl
@[simp] theorem pokeIn_latch (a : Nat) (b : Byte) (s : State) :
    (pokeIn a b s).latch = s.latch := rfl
@[simp] theorem pokeIn_row (a : Nat) (b : Byte) (s : State) :
    (pokeIn a b s).row = s.row := rfl
@[simp] theorem pokeIn_cursor (a : Nat) (b : Byte) (s : State) :
    (pokeIn a b s).cursor = s.cursor := rfl
@[simp] theorem pokeIn_pal (a : Nat) (b : Byte) (s : State) :
    (pokeIn a b s).pal = s.pal := rfl
@[simp] theorem pokeIn_palWritten (a : Nat) (b : Byte) (s : State) :
    (pokeIn a b s).palWritten = s.palWritten := rfl
@[simp] theorem pokeIn_scr (a : Nat) (b : Byte) (s : State) :
    (pokeIn a b s).scr = s.scr := rfl
@[simp] theorem pokeIn_acc (a : Nat) (b : Byte) (s : State) :
    (pokeIn a b s).acc = s.acc := rfl
@[simp] theorem pokeIn_rb (a : Nat) (b : Byte) (s : State) :
    (pokeIn a b s).rb = s.rb := rfl
@[simp] theorem pokeIn_outcnt (a : Nat) (b : Byte) (s : State) :
    (pokeIn a b s).outcnt = s.outcnt := rfl
@[simp] theorem pokeIn_phase (a : Nat) (b : Byte) (s : State) :
    (pokeIn a b s).phase = s.phase := rfl
@[simp] theorem pokeIn_ctrlOff (a : Nat) (b : Byte) (s : State) :
    (pokeIn a b s).ctrlOff = s.ctrlOff := rfl
@[simp] theorem pokeIn_stepCursor (a : Nat) (b : Byte) (s : State) :
    (pokeIn a b s).stepCursor = s.stepCursor := rfl
@[simp] theorem pokeIn_inp (a : Nat) (b : Byte) (s : State) :
    (pokeIn a b s).inp = Cells.set (w := 8) s.inp a b := rfl
@[simp] theorem pokeIn_touched (a : Nat) (b : Byte) (s : State) :
    (pokeIn a b s).touched = if inPayloadWindow s a then Cells.set s.touched a 1 else s.touched := rfl
@[simp] theorem pokeIn_out (a : Nat) (b : Byte) (s : State) :
    (pokeIn a b s).out = s.out := rfl
@[simp] theorem pokeIn_sinkReady (a : Nat) (b : Byte) (s : State) :
    (pokeIn a b s).sinkReady = s.sinkReady := rfl
@[simp] theorem pokeIn_inputs (a : Nat) (b : Byte) (s : State) :
    (pokeIn a b s).inputs = s.inputs := rfl
@[simp] theorem pokeIn_reads (a : Nat) (b : Byte) (s : State) :
    (pokeIn a b s).reads = s.reads := rfl
@[simp] theorem pokeIn_draws (a : Nat) (b : Byte) (s : State) :
    (pokeIn a b s).draws = s.draws := rfl

/-! ### beginRow -/

@[simp] theorem beginRow_params (s : State) :
    (beginRow s).params = s.params := rfl
@[simp] theorem beginRow_state (s : State) :
    (beginRow s).state = s.state := rfl
@[simp] theorem beginRow_rowValid (s : State) :
    (beginRow s).rowValid = s.rowValid := rfl
@[simp] theorem beginRow_err (s : State) :
    (beginRow s).err = s.err := rfl
@[simp] theorem beginRow_cfg (s : State) :
    (beginRow s).cfg = s.cfg := rfl
@[simp] theorem beginRow_latch (s : State) :
    (beginRow s).latch = s.latch := rfl
@[simp] theorem beginRow_row (s : State) :
    (beginRow s).row = s.row := rfl
@[simp] theorem beginRow_cursor (s : State) :
    (beginRow s).cursor = s.cursor := rfl
@[simp] theorem beginRow_pal (s : State) :
    (beginRow s).pal = s.pal := rfl
@[simp] theorem beginRow_palWritten (s : State) :
    (beginRow s).palWritten = s.palWritten := rfl
@[simp] theorem beginRow_scr (s : State) :
    (beginRow s).scr = s.scr := rfl
@[simp] theorem beginRow_acc (s : State) :
    (beginRow s).acc = s.acc := rfl
@[simp] theorem beginRow_rb (s : State) :
    (beginRow s).rb = s.rb := rfl
@[simp] theorem beginRow_outcnt (s : State) :
    (beginRow s).outcnt = 0 := rfl
@[simp] theorem beginRow_phase (s : State) :
    (beginRow s).phase = .decompress := rfl
@[simp] theorem beginRow_ctrlOff (s : State) :
    (beginRow s).ctrlOff = s.ctrlOff := rfl
@[simp] theorem beginRow_stepCursor (s : State) :
    (beginRow s).stepCursor = s.stepCursor := rfl
@[simp] theorem beginRow_inp (s : State) :
    (beginRow s).inp = s.inp := rfl
@[simp] theorem beginRow_touched (s : State) :
    (beginRow s).touched = s.touched := rfl
@[simp] theorem beginRow_out (s : State) :
    (beginRow s).out = s.out := rfl
@[simp] theorem beginRow_sinkReady (s : State) :
    (beginRow s).sinkReady = s.sinkReady := rfl
@[simp] theorem beginRow_inputs (s : State) :
    (beginRow s).inputs = s.inputs := rfl
@[simp] theorem beginRow_reads (s : State) :
    (beginRow s).reads = s.reads := rfl
@[simp] theorem beginRow_draws (s : State) :
    (beginRow s).draws = s.draws := rfl

/-! ### markControl -/

@[simp] theorem markControl_params (s : State) :
    (markControl s).params = s.params := rfl
@[simp] theorem markControl_state (s : State) :
    (markControl s).state = s.state := rfl
@[simp] theorem markControl_rowValid (s : State) :
    (markControl s).rowValid = s.rowValid := rfl
@[simp] theorem markControl_err (s : State) :
    (markControl s).err = s.err := rfl
@[simp] theorem markControl_cfg (s : State) :
    (markControl s).cfg = s.cfg := rfl
@[simp] theorem markControl_latch (s : State) :
    (markControl s).latch = s.latch := rfl
@[simp] theorem markControl_row (s : State) :
    (markControl s).row = s.row := rfl
@[simp] theorem markControl_cursor (s : State) :
    (markControl s).cursor = s.cursor := rfl
@[simp] theorem markControl_pal (s : State) :
    (markControl s).pal = s.pal := rfl
@[simp] theorem markControl_palWritten (s : State) :
    (markControl s).palWritten = s.palWritten := rfl
@[simp] theorem markControl_scr (s : State) :
    (markControl s).scr = s.scr := rfl
@[simp] theorem markControl_acc (s : State) :
    (markControl s).acc = s.acc := rfl
@[simp] theorem markControl_rb (s : State) :
    (markControl s).rb = s.rb := rfl
@[simp] theorem markControl_outcnt (s : State) :
    (markControl s).outcnt = s.outcnt := rfl
@[simp] theorem markControl_phase (s : State) :
    (markControl s).phase = s.phase := rfl
@[simp] theorem markControl_ctrlOff (s : State) :
    (markControl s).ctrlOff = s.cursor := rfl
@[simp] theorem markControl_stepCursor (s : State) :
    (markControl s).stepCursor = s.stepCursor := rfl
@[simp] theorem markControl_inp (s : State) :
    (markControl s).inp = s.inp := rfl
@[simp] theorem markControl_touched (s : State) :
    (markControl s).touched = s.touched := rfl
@[simp] theorem markControl_out (s : State) :
    (markControl s).out = s.out := rfl
@[simp] theorem markControl_sinkReady (s : State) :
    (markControl s).sinkReady = s.sinkReady := rfl
@[simp] theorem markControl_inputs (s : State) :
    (markControl s).inputs = s.inputs := rfl
@[simp] theorem markControl_reads (s : State) :
    (markControl s).reads = s.reads := rfl
@[simp] theorem markControl_draws (s : State) :
    (markControl s).draws = s.draws := rfl

/-! ### rowDecompressed -/

@[simp] theorem rowDecompressed_params (s : State) :
    (rowDecompressed s).params = s.params := rfl
@[simp] theorem rowDecompressed_state (s : State) :
    (rowDecompressed s).state = s.state := rfl
@[simp] theorem rowDecompressed_rowValid (s : State) :
    (rowDecompressed s).rowValid = s.rowValid := rfl
@[simp] theorem rowDecompressed_err (s : State) :
    (rowDecompressed s).err = s.err := rfl
@[simp] theorem rowDecompressed_cfg (s : State) :
    (rowDecompressed s).cfg = s.cfg := rfl
@[simp] theorem rowDecompressed_latch (s : State) :
    (rowDecompressed s).latch = s.latch := rfl
@[simp] theorem rowDecompressed_row (s : State) :
    (rowDecompressed s).row = s.row := rfl
@[simp] theorem rowDecompressed_cursor (s : State) :
    (rowDecompressed s).cursor = s.cursor := rfl
@[simp] theorem rowDecompressed_pal (s : State) :
    (rowDecompressed s).pal = s.pal := rfl
@[simp] theorem rowDecompressed_palWritten (s : State) :
    (rowDecompressed s).palWritten = s.palWritten := rfl
@[simp] theorem rowDecompressed_scr (s : State) :
    (rowDecompressed s).scr = s.scr := rfl
@[simp] theorem rowDecompressed_acc (s : State) :
    (rowDecompressed s).acc = s.acc := rfl
@[simp] theorem rowDecompressed_rb (s : State) :
    (rowDecompressed s).rb = s.rb := rfl
@[simp] theorem rowDecompressed_outcnt (s : State) :
    (rowDecompressed s).outcnt = s.outcnt := rfl
@[simp] theorem rowDecompressed_phase (s : State) :
    (rowDecompressed s).phase = .deinterleave := rfl
@[simp] theorem rowDecompressed_ctrlOff (s : State) :
    (rowDecompressed s).ctrlOff = s.ctrlOff := rfl
@[simp] theorem rowDecompressed_stepCursor (s : State) :
    (rowDecompressed s).stepCursor = s.stepCursor := rfl
@[simp] theorem rowDecompressed_inp (s : State) :
    (rowDecompressed s).inp = s.inp := rfl
@[simp] theorem rowDecompressed_touched (s : State) :
    (rowDecompressed s).touched = s.touched := rfl
@[simp] theorem rowDecompressed_out (s : State) :
    (rowDecompressed s).out = s.out := rfl
@[simp] theorem rowDecompressed_sinkReady (s : State) :
    (rowDecompressed s).sinkReady = s.sinkReady := rfl
@[simp] theorem rowDecompressed_inputs (s : State) :
    (rowDecompressed s).inputs = s.inputs := rfl
@[simp] theorem rowDecompressed_reads (s : State) :
    (rowDecompressed s).reads = s.reads := rfl
@[simp] theorem rowDecompressed_draws (s : State) :
    (rowDecompressed s).draws = s.draws := rfl

/-! ### popInput -/

@[simp] theorem popInput_params (s : State) :
    (popInput s).params = s.params := rfl
@[simp] theorem popInput_state (s : State) :
    (popInput s).state = s.state := rfl
@[simp] theorem popInput_rowValid (s : State) :
    (popInput s).rowValid = s.rowValid := rfl
@[simp] theorem popInput_err (s : State) :
    (popInput s).err = s.err := rfl
@[simp] theorem popInput_cfg (s : State) :
    (popInput s).cfg = s.cfg := rfl
@[simp] theorem popInput_latch (s : State) :
    (popInput s).latch = s.latch := rfl
@[simp] theorem popInput_row (s : State) :
    (popInput s).row = s.row := rfl
@[simp] theorem popInput_cursor (s : State) :
    (popInput s).cursor = s.cursor := rfl
@[simp] theorem popInput_pal (s : State) :
    (popInput s).pal = s.pal := rfl
@[simp] theorem popInput_palWritten (s : State) :
    (popInput s).palWritten = s.palWritten := rfl
@[simp] theorem popInput_scr (s : State) :
    (popInput s).scr = s.scr := rfl
@[simp] theorem popInput_acc (s : State) :
    (popInput s).acc = s.acc := rfl
@[simp] theorem popInput_rb (s : State) :
    (popInput s).rb = s.rb := rfl
@[simp] theorem popInput_outcnt (s : State) :
    (popInput s).outcnt = s.outcnt := rfl
@[simp] theorem popInput_phase (s : State) :
    (popInput s).phase = s.phase := rfl
@[simp] theorem popInput_ctrlOff (s : State) :
    (popInput s).ctrlOff = s.ctrlOff := rfl
@[simp] theorem popInput_stepCursor (s : State) :
    (popInput s).stepCursor = s.stepCursor := rfl
@[simp] theorem popInput_inp (s : State) :
    (popInput s).inp = s.inp := rfl
@[simp] theorem popInput_touched (s : State) :
    (popInput s).touched = s.touched := rfl
@[simp] theorem popInput_out (s : State) :
    (popInput s).out = s.out := rfl
@[simp] theorem popInput_sinkReady (s : State) :
    (popInput s).sinkReady = s.sinkReady := rfl
@[simp] theorem popInput_inputs (s : State) :
    (popInput s).inputs = s.inputs.tail := rfl
@[simp] theorem popInput_reads (s : State) :
    (popInput s).reads = s.reads := rfl
@[simp] theorem popInput_draws (s : State) :
    (popInput s).draws = s.draws := rfl

/-! ### resetBlock -/

@[simp] theorem resetBlock_params (s : State) :
    (resetBlock s).params = s.params := rfl
@[simp] theorem resetBlock_state (s : State) :
    (resetBlock s).state = State.reset.state := rfl
@[simp] theorem resetBlock_rowValid (s : State) :
    (resetBlock s).rowValid = State.reset.rowValid := rfl
@[simp] theorem resetBlock_err (s : State) :
    (resetBlock s).err = State.reset.err := rfl
@[simp] theorem resetBlock_cfg (s : State) :
    (resetBlock s).cfg = State.reset.cfg := rfl
@[simp] theorem resetBlock_latch (s : State) :
    (resetBlock s).latch = State.reset.latch := rfl
@[simp] theorem resetBlock_row (s : State) :
    (resetBlock s).row = State.reset.row := rfl
@[simp] theorem resetBlock_cursor (s : State) :
    (resetBlock s).cursor = State.reset.cursor := rfl
@[simp] theorem resetBlock_pal (s : State) :
    (resetBlock s).pal = State.reset.pal := rfl
@[simp] theorem resetBlock_palWritten (s : State) :
    (resetBlock s).palWritten = State.reset.palWritten := rfl
@[simp] theorem resetBlock_scr (s : State) :
    (resetBlock s).scr = State.reset.scr := rfl
@[simp] theorem resetBlock_acc (s : State) :
    (resetBlock s).acc = State.reset.acc := rfl
@[simp] theorem resetBlock_rb (s : State) :
    (resetBlock s).rb = State.reset.rb := rfl
@[simp] theorem resetBlock_outcnt (s : State) :
    (resetBlock s).outcnt = State.reset.outcnt := rfl
@[simp] theorem resetBlock_phase (s : State) :
    (resetBlock s).phase = State.reset.phase := rfl
@[simp] theorem resetBlock_ctrlOff (s : State) :
    (resetBlock s).ctrlOff = State.reset.ctrlOff := rfl
@[simp] theorem resetBlock_stepCursor (s : State) :
    (resetBlock s).stepCursor = State.reset.stepCursor := rfl
@[simp] theorem resetBlock_inp (s : State) :
    (resetBlock s).inp = s.inp := rfl
@[simp] theorem resetBlock_touched (s : State) :
    (resetBlock s).touched = State.reset.touched := rfl
@[simp] theorem resetBlock_out (s : State) :
    (resetBlock s).out = s.out := rfl
@[simp] theorem resetBlock_sinkReady (s : State) :
    (resetBlock s).sinkReady = s.sinkReady := rfl
@[simp] theorem resetBlock_inputs (s : State) :
    (resetBlock s).inputs = s.inputs := rfl
@[simp] theorem resetBlock_reads (s : State) :
    (resetBlock s).reads = s.reads := rfl
@[simp] theorem resetBlock_draws (s : State) :
    (resetBlock s).draws = s.draws := rfl

end Sys2Proof.Machine
end

