-- ==== Sys2Proof/Laws/Ops.lean ====
section
/-! SUPPORT. One lemma for each shared operation, saying everything it can do: the read of the payload,
the copy and the repeat, unspecified contents, the pixel writes, the host's fill. -/

namespace Sys2Proof.Machine

/-! ### Unspecified contents -/

theorem freeScr_wf {s : State} (h : Memory.wf s.scr) (keep : Nat) : Memory.wf (freeScr keep s) :=
  Cells.wf_freeFrom h _ _ _

theorem freeScr_keeps (keep : Nat) (s : State) {a : Nat} (h : a < keep) :
    Cells.get (w := 8) (freeScr keep s) a = Cells.get (w := 8) s.scr a :=
  Cells.get_freeFrom_of_lt _ _ _ _ h

theorem freeAcc_wf (s : State) : Cells.wf (freeAcc s) := Cells.wf_freeFrom Cells.wf_nil _ _ _

/-! ### The read of the payload -/

/-- Everything ReadIn can do (R100): the error entry at the end of the payload, a fault at an address
that does not exist, or one byte and CURSOR + 1, the byte of IN unless the host changed it. -/
theorem readIn_cases (s : State) :
    (s.latch.len ≤ s.cursor ∧ readIn s = .stop (.next
        (raiseError .overrun s.cursor s.latch.target (BitVec.ofNat 32 s.outcnt) s))) ∨
    (s.cursor < s.latch.len ∧ s.params.inLen.toNat ≤ payloadAddr s ∧
        readIn s = .stop (.fault .inOutOfRange)) ∨
    (s.cursor < s.latch.len ∧ payloadAddr s < s.params.inLen.toNat ∧
        ∃ v d, readIn s = .ok v (advance d s) ∧
          (Cells.get s.touched (payloadAddr s) = 0 →
            v = Cells.get (w := 8) s.inp (payloadAddr s) ∧ d = false)) := by
  unfold readIn
  split
  · next h => exact .inl ⟨h, rfl⟩
  · next h =>
    have hlt : s.cursor < s.latch.len := by simpa using h
    split
    · next h2 => exact .inr (.inl ⟨hlt, h2, rfl⟩)
    · next h2 =>
      refine .inr (.inr ⟨hlt, Nat.lt_of_not_le h2, ?_⟩)
      split
      · next ht => exact ⟨_, true, rfl, fun h0 => by rw [ht] at h0; exact absurd h0 (by decide)⟩
      · exact ⟨_, false, rfl, fun _ => ⟨rfl, rfl⟩⟩

/-- A readable byte is read. -/
theorem readIn_of_readable {s : State} (h : Readable 1 s) :
    ∃ v d, readIn s = .ok v (advance d s) ∧
      (Cells.get s.touched (payloadAddr s) = 0 →
        v = Cells.get (w := 8) s.inp (payloadAddr s) ∧ d = false) := by
  obtain ⟨h1, h2⟩ := h
  rcases readIn_cases s with ⟨hc, -⟩ | ⟨-, ha, -⟩ | ⟨-, -, h⟩
  · simp only [BitVec.le_def] at hc; omega
  · unfold payloadAddr at ha; omega
  · exact h

/-- At the end of the payload the read raises OVERRUN. -/
theorem readIn_of_end {s : State} (h : s.latch.len ≤ s.cursor) :
    readIn s = .stop (.next
      (raiseError .overrun s.cursor s.latch.target (BitVec.ofNat 32 s.outcnt) s)) := by
  unfold readIn; rw [if_pos h]

theorem advance_cursor_toNat {s : State} {d : Bool} (h : s.cursor < s.latch.len) :
    (advance d s).cursor.toNat = s.cursor.toNat + 1 := by
  rw [advance_cursor]
  bv_omega

/-! ### The copy of a run -/

/-- n payload bytes were copied to SCR from OUTCNT on, and nothing else happened. -/
structure Copied (n : Nat) (s t : State) : Prop where
  frame : t = { s with scr := t.scr, outcnt := s.outcnt + n, cursor := t.cursor, draws := t.draws }
  cursor : t.cursor.toNat = s.cursor.toNat + n
  bound : s.cursor.toNat + n ≤ s.latch.len.toNat ∨ n = 0
  elsewhere : ∀ a, a < s.outcnt ∨ s.outcnt + n ≤ a →
    Cells.get (w := 8) t.scr a = Cells.get (w := 8) s.scr a
  copied : ∀ k, k < n → Cells.get s.touched (payloadAddr s + k) = 0 →
    Cells.get (w := 8) t.scr (s.outcnt + k) = Cells.get (w := 8) s.inp (payloadAddr s + k)
  drawsKept : (∀ k, k < n → Cells.get s.touched (payloadAddr s + k) = 0) → t.draws = s.draws
  canonical : Memory.wf s.scr → Memory.wf t.scr

theorem Copied.refl (s : State) : Copied 0 s s where
  frame := rfl
  cursor := rfl
  bound := .inr rfl
  elsewhere _ _ := rfl
  copied k h := absurd h (Nat.not_lt_zero k)
  drawsKept _ := rfl
  canonical h := h

theorem Copied.step {n : Nat} {s t : State} {v : Byte} {d : Bool} (hlt : s.cursor < s.latch.len)
    (hv : Cells.get s.touched (payloadAddr s) = 0 →
      v = Cells.get (w := 8) s.inp (payloadAddr s) ∧ d = false)
    (h : Copied n (scrPush v (advance d s)) t) : Copied (n + 1) s t := by
  have hcur := advance_cursor_toNat (d := d) hlt
  have hcur' : (s.cursor + 1).toNat = s.cursor.toNat + 1 := hcur
  have hframe := h.frame
  have hc := h.cursor
  simp only [scrPush_cursor, scrPush_outcnt, advance_outcnt] at hc hframe
  rw [hcur] at hc
  have hpay : payloadAddr (scrPush v (advance d s)) = payloadAddr s + 1 := by
    show s.latch.base.toNat + (s.cursor + 1).toNat = s.latch.base.toNat + s.cursor.toNat + 1
    omega
  simp only [BitVec.lt_def] at hlt
  refine ⟨?_, by omega, .inl ?_, ?_, ?_, ?_, ?_⟩
  · rw [hframe]; simp [scrPush, advance]; omega
  · have := h.bound
    simp only [scrPush_cursor, scrPush_latch, advance_latch] at this
    rw [hcur] at this
    omega
  · intro a ha
    have := h.elsewhere a (by simp only [scrPush_outcnt, advance_outcnt]; omega)
    rw [this]
    simp only [scrPush_scr, advance_scr, advance_outcnt]
    exact Cells.get_set_ne _ _ (by omega)
  · intro k hk ht
    cases k with
    | zero =>
      have := h.elsewhere s.outcnt (by simp only [scrPush_outcnt, advance_outcnt]; omega)
      rw [Nat.add_zero, this]
      simp only [scrPush_scr, advance_scr, advance_outcnt, Cells.get_set_same]
      exact (hv (by simpa using ht)).1
    | succ k =>
      have := h.copied k (by omega) (by
        rw [hpay]
        simp only [scrPush_touched, advance_touched]
        rwa [show payloadAddr s + 1 + k = payloadAddr s + (k + 1) by omega])
      rw [hpay] at this
      simp only [scrPush_outcnt, advance_outcnt, scrPush_inp, advance_inp] at this
      rwa [show s.outcnt + (k + 1) = s.outcnt + 1 + k by omega,
        show payloadAddr s + (k + 1) = payloadAddr s + 1 + k by omega]
  · intro ht
    have := h.drawsKept (by
      intro k hk
      rw [hpay]
      simp only [scrPush_touched, advance_touched]
      rw [show payloadAddr s + 1 + k = payloadAddr s + (k + 1) by omega]
      exact ht (k + 1) (by omega))
    rw [this]
    simp [(hv (by simpa using ht 0 (by omega))).2]
  · intro hw
    exact h.canonical (by simpa using Cells.wf_set hw _ _)

/-- Everything a copy of n bytes can do: all n, an OVERRUN after j of them, or a fault. -/
theorem copyBytes_cases (n : Nat) (s : State) :
    (∃ t, copyBytes n s = .ok () t ∧ Copied n s t) ∨
    (∃ j t, j < n ∧ Copied j s t ∧ s.latch.len ≤ t.cursor ∧ copyBytes n s = .stop (.next
        (raiseError .overrun t.cursor s.latch.target (BitVec.ofNat 32 (s.outcnt + j)) t))) ∨
    (∃ j t, j < n ∧ Copied j s t ∧ t.cursor < s.latch.len ∧ s.params.inLen.toNat ≤ payloadAddr t ∧
        copyBytes n s = .stop (.fault .inOutOfRange)) := by
  induction n generalizing s with
  | zero => exact .inl ⟨s, rfl, .refl s⟩
  | succ n ih =>
    unfold copyBytes
    rcases readIn_cases s with ⟨hc, hr⟩ | ⟨hc, ha, hr⟩ | ⟨hc, -, v, d, hr, hv⟩
    · exact .inr (.inl ⟨0, s, by omega, .refl s, hc, by rw [hr]; rfl⟩)
    · exact .inr (.inr ⟨0, s, by omega, .refl s, hc, ha, by rw [hr]⟩)
    · rw [hr]
      rcases ih (scrPush v (advance d s)) with ⟨t, he, ht⟩ | ⟨j, t, hj, ht, hl, he⟩ |
          ⟨j, t, hj, ht, hl, ha, he⟩
      · exact .inl ⟨t, he, ht.step hc hv⟩
      · refine .inr (.inl ⟨j + 1, t, by omega, ht.step hc hv, by simpa using hl, ?_⟩)
        simp only [he, scrPush_latch, advance_latch, scrPush_outcnt, advance_outcnt]
        rw [show s.outcnt + (j + 1) = s.outcnt + 1 + j by omega]
      · exact .inr (.inr ⟨j + 1, t, by omega, ht.step hc hv, by simpa using hl, by simpa using ha, he⟩)

theorem Copied.latch_eq {n : Nat} {s t : State} (h : Copied n s t) : t.latch = s.latch := by
  rw [h.frame]

theorem Copied.params_eq {n : Nat} {s t : State} (h : Copied n s t) : t.params = s.params := by
  rw [h.frame]

/-- n readable bytes are copied. -/
theorem copyBytes_of_readable {n : Nat} {s : State} (h : Readable n s) :
    ∃ t, copyBytes n s = .ok () t ∧ Copied n s t := by
  obtain ⟨h1, h2⟩ := h
  rcases copyBytes_cases n s with h | ⟨j, t, hj, ht, hl, -⟩ | ⟨j, t, hj, ht, hl, ha, -⟩
  · exact h
  · have := ht.cursor
    simp only [BitVec.le_def] at hl
    omega
  · have := ht.cursor
    simp only [payloadAddr, ht.latch_eq] at ha
    omega

/-- A run overflows exactly when it does not fit in the rest of the row (R109). -/
theorem overflows_iff (n : Nat) (s : State) :
    overflows n s = true ↔ s.latch.target.toNat < s.outcnt + n := by
  simp [overflows]

/-! ### The repeat of a byte -/

/-- Everything a repeat does: n copies of v in SCR from OUTCNT on. -/
theorem repeatByte_spec (v : Byte) (n : Nat) (s : State) :
    repeatByte v n s = { s with scr := (repeatByte v n s).scr, outcnt := s.outcnt + n } ∧
    (∀ k, k < n → Cells.get (w := 8) (repeatByte v n s).scr (s.outcnt + k) = v) ∧
    (∀ a, a < s.outcnt ∨ s.outcnt + n ≤ a →
      Cells.get (w := 8) (repeatByte v n s).scr a = Cells.get (w := 8) s.scr a) ∧
    (Memory.wf s.scr → Memory.wf (repeatByte v n s).scr) := by
  induction n generalizing s with
  | zero => exact ⟨rfl, fun k h => absurd h (Nat.not_lt_zero k), fun _ _ => rfl, fun h => h⟩
  | succ n ih =>
    obtain ⟨hf, hk, he, hw⟩ := ih (scrPush v s)
    simp only [scrPush_outcnt] at hf hk he
    unfold repeatByte
    refine ⟨?_, ?_, ?_, ?_⟩
    · rw [hf]; simp [scrPush]; omega
    · intro k hlt
      cases k with
      | zero => rw [Nat.add_zero, he _ (by omega)]; simp
      | succ k =>
        rw [show s.outcnt + (k + 1) = s.outcnt + 1 + k by omega]
        exact hk k (by omega)
    · intro a ha
      rw [he a (by omega)]
      simp only [scrPush_scr]
      exact Cells.get_set_ne _ _ (by omega)
    · intro h
      exact hw (by simpa using Cells.wf_set h _ _)

/-! ### The host's fill -/

/-- What a fill writes: consecutive bytes of IN, and the marks of R76. -/
theorem pokeAll_frame (bs : List Byte) (a : Nat) (s : State) :
    pokeAll a bs s = { s with inp := Cells.setRange (w := 8) s.inp a bs,
                              touched := (pokeAll a bs s).touched } := by
  induction bs generalizing a s with
  | nil => rfl
  | cons b bs ih =>
    unfold pokeAll
    rw [ih]
    simp [Cells.setRange, pokeIn]

theorem pokeAll_touched_wf (bs : List Byte) (a : Nat) (s : State) (h : Cells.wf s.touched) :
    Cells.wf (pokeAll a bs s).touched := by
  induction bs generalizing a s with
  | nil => exact h
  | cons b bs ih =>
    unfold pokeAll
    apply ih
    rw [pokeIn_touched]
    split
    · exact Cells.wf_set h _ _
    · exact h

end Sys2Proof.Machine
end

