-- ==== Sys2Proof/Laws/PerInstr.lean ====
section
/-! SUPPORT. The family Table: the encoder's bits lie in the instruction's own row of
spec/opcode_table.json and in no row tried before it. -/

namespace Sys2Proof.Laws.Table

/-- A well-formed instruction is encoded in its row: mask and match of the table, NOP's row before
REP's and ABORT's before START's before STEP's (30_encoding.md R80, R84, R85). -/
def Statement (i : Instr) : Prop :=
  i.wf = true →
    match i with
    | .lit n => ∃ b, encode (.lit n) = .control b ∧ b &&& 0x80 = 0x00 ∧ b.setWidth 7 = n
    | .nop => ∃ b, encode .nop = .control b ∧ b &&& 0xFF = 0x80
    | .rep n => ∃ b, encode (.rep n) = .control b ∧ b &&& 0x80 = 0x80 ∧ b &&& 0xFF ≠ 0x80 ∧ b.setWidth 7 = n
    | .copy => encode .copy = .mode 0
    | .start => ∃ w, encode .start = .command w ∧ w &&& 0x5 = 0x1
    | .step => ∃ w, encode .step = .command w ∧ w &&& 0x7 = 0x2
    | .abort => ∃ w, encode .abort = .command w ∧ w &&& 0x4 = 0x4

theorem lit (n : BitVec 7) : Statement (.lit n) := by
  intro _
  refine ⟨_, rfl, ?_, ?_⟩
  · revert n; decide
  · revert n; decide

theorem nop : Statement .nop := fun _ => ⟨_, rfl, rfl⟩

theorem rep (n : BitVec 7) : Statement (.rep n) := by
  intro h
  have hn : n ≠ 0 := by simpa [Instr.wf] using h
  refine ⟨_, rfl, ?_, ?_, ?_⟩
  · revert n; decide
  · revert n; decide
  · revert n; decide

theorem copy : Statement .copy := fun _ => rfl

theorem start : Statement .start := fun _ => ⟨_, rfl, rfl⟩

theorem step : Statement .step := fun _ => ⟨_, rfl, rfl⟩

theorem abort : Statement .abort := fun _ => ⟨_, rfl, rfl⟩

end Sys2Proof.Laws.Table
end

