-- ==== Sys2Proof/Laws/Stages.lean ====
section
/-! SUPPORT. What the stages of a row step after the decompression do: the deinterleave's cells (R142,
R144) and the resolver's pixels (R160–R164). -/

namespace Sys2Proof.Machine

/-! ### Deinterleave -/

/-- One plane over a list of distinct columns: each column of the list gets the plane's bit. -/
theorem orPlane_list (s : State) (p : Nat) (xs : List Nat) (hx : xs.Nodup) (acc : Cells 9) (x : Nat) :
    Cells.get (xs.foldl (orPlaneBit s p) acc) x =
      if x ∈ xs ∧ planeBit s p x = true then
        (Cells.get acc x ||| (1#9 <<< p)) &&& accMask s.params.accWidth
      else Cells.get acc x := by
  induction xs generalizing acc with
  | nil => simp
  | cons y ys ih =>
    obtain ⟨hy, hys⟩ := List.nodup_cons.1 hx
    rw [List.foldl_cons, ih hys]
    by_cases hxy : x = y
    · subst hxy
      by_cases hb : planeBit s p x = true
      · simp [hy, hb, orPlaneBit]
      · simp [hy, hb, orPlaneBit]
    · have hget : Cells.get (orPlaneBit s p acc y) x = Cells.get acc x := by
        unfold orPlaneBit
        split
        · exact Cells.get_set_ne _ _ hxy
        · rfl
      simp [hget, hxy]

/-- One plane: columns 0 .. S.WIDTH − 1 get its bit, every other cell stays. -/
theorem orPlane_get (s : State) (acc : Cells 9) (p x : Nat) :
    Cells.get (orPlane s acc p) x =
      if x < s.latch.width.toNat ∧ planeBit s p x = true then
        (Cells.get acc x ||| (1#9 <<< p)) &&& accMask s.params.accWidth
      else Cells.get acc x := by
  unfold orPlane
  rw [orPlane_list s p _ List.nodup_range]
  simp

/-- A bit of a cell after the planes below n: its own plane's bit, if the cell has that bit. -/
theorem planes_getLsbD (s : State) (n : Nat) (acc : Cells 9) (x q : Nat)
    (hx : x < s.latch.width.toNat) (h0 : Cells.get acc x = 0) :
    (Cells.get ((List.range n).foldl (orPlane s) acc) x).getLsbD q =
      (decide (q < n) && (accMask s.params.accWidth).getLsbD q && planeBit s q x) := by
  induction n with
  | zero => simp [h0]
  | succ n ih =>
    rw [List.range_succ, List.foldl_append, List.foldl_cons, List.foldl_nil, orPlane_get]
    have hq9 : (accMask s.params.accWidth).getLsbD q = true → q < 9 := by
      intro h
      exact Nat.lt_of_not_le (fun hge => by rw [BitVec.getLsbD_of_ge _ _ hge] at h; exact absurd h (by simp))
    by_cases hb : planeBit s n x = true
    · rw [if_pos ⟨hx, hb⟩, BitVec.getLsbD_and, BitVec.getLsbD_or, ih]
      have hsh : (1#9 <<< n).getLsbD q = (decide (q < 9) && decide (q = n)) := by
        rw [BitVec.getLsbD_shiftLeft, BitVec.getLsbD_one]
        by_cases h1 : q < n
        · simp [h1, Nat.ne_of_lt h1]
        · simp only [h1, decide_false, Bool.not_false, Bool.and_true]
          by_cases h2 : q < 9
          · simp only [h2, decide_true, Bool.true_and, show (0 < 9) from by decide]
            by_cases h3 : q = n
            · simp [h3]
            · simp [h3, show ¬ q - n = 0 by omega]
          · simp [h2]
      rw [hsh]
      cases hm : (accMask s.params.accWidth).getLsbD q with
      | false => simp
      | true =>
        have := hq9 hm
        by_cases h3 : q = n
        · subst h3; simp [this, hb]
        · rw [show decide (q < n + 1) = decide (q < n) by simp; omega]
          simp [h3]
    · rw [if_neg (fun h => hb h.2), ih]
      by_cases h3 : q = n
      · subst h3; simp [hb]
      · rw [show decide (q < n + 1) = decide (q < n) by simp; omega]

/-- The columns from S.WIDTH on are not written. -/
theorem planes_elsewhere (s : State) (ps : List Nat) (acc : Cells 9) (x : Nat)
    (hx : s.latch.width.toNat ≤ x) : Cells.get (ps.foldl (orPlane s) acc) x = Cells.get acc x := by
  induction ps generalizing acc with
  | nil => rfl
  | cons p ps ih => rw [List.foldl_cons, ih, orPlane_get, if_neg (by omega)]

theorem orPlane_wf (s : State) (p : Nat) {acc : Cells 9} (h : Cells.wf acc) :
    Cells.wf (orPlane s acc p) := by
  unfold orPlane
  generalize List.range s.latch.width.toNat = xs
  induction xs generalizing acc with
  | nil => exact h
  | cons x xs ih =>
    rw [List.foldl_cons]
    apply ih
    unfold orPlaneBit
    split
    · exact Cells.wf_set h _ _
    · exact h

theorem deinterleaved_wf {s : State} (h : Cells.wf s.acc) : Cells.wf (deinterleaved s) := by
  unfold deinterleaved
  generalize List.range s.latch.eff.toNat = ps
  generalize s.acc = acc at h
  induction ps generalizing acc with
  | nil => exact h
  | cons p ps ih => rw [List.foldl_cons]; exact ih _ (orPlane_wf s p h)

/-! ### Resolve -/

/-- A resolved column leaves the state as it was but for its pixel and its cell. -/
theorem resolveColumn_ok {x : Nat} {s t : State} (h : resolveColumn x s = .ok () t) :
    ∃ px, columnPixel s x = some px ∧ px.length = 4 ∧ t = clearCell x (writePixel x px s) := by
  unfold resolveColumn at h
  split at h
  · next px hpx =>
    refine ⟨px, hpx, ?_, by injection h with _ h; exact h.symm⟩
    unfold columnPixel at hpx
    split at hpx
    · cases hpx; rfl
    · rw [Option.map_eq_some_iff] at hpx
      obtain ⟨c, -, rfl⟩ := hpx
      rfl
  · cases h

theorem columnPixel_congr {s t : State} {x : Nat} (hl : t.latch = s.latch) (hp : t.pal = s.pal)
    (hw : t.palWritten = s.palWritten) (ha : Cells.get t.acc x = Cells.get s.acc x) :
    columnPixel t x = columnPixel s x := by
  unfold columnPixel palRead
  rw [hl, hp, hw, ha]

/-- Everything the resolver does to a list of distinct columns when it does not fault. -/
theorem resolveColumns_ok {xs : List Nat} (hx : xs.Nodup) {s t : State}
    (h : resolveColumns xs s = .ok () t) :
    t = { s with rb := t.rb, acc := t.acc } ∧
    (∀ x, Cells.get t.acc x = if x ∈ xs then 0 else Cells.get s.acc x) ∧
    (∀ x, x ∈ xs → ∃ px, columnPixel s x = some px ∧ px.length = 4 ∧
      ∀ k, k < 4 → Cells.get (w := 8) t.rb (4 * x + k) = px.getD k 0) ∧
    (∀ a, a / 4 ∉ xs → Cells.get (w := 8) t.rb a = Cells.get (w := 8) s.rb a) ∧
    (Cells.wf s.acc → Cells.wf t.acc) ∧ (Memory.wf s.rb → Memory.wf t.rb) := by
  induction xs generalizing s with
  | nil =>
    injection h with _ h
    subst h
    refine ⟨rfl, ?_, ?_, fun _ _ => rfl, id, id⟩ <;> simp
  | cons y ys ih =>
    obtain ⟨hy, hys⟩ := List.nodup_cons.1 hx
    unfold resolveColumns at h
    split at h
    · next u hu =>
      obtain ⟨px, hpx, hlen, rfl⟩ := resolveColumn_ok hu
      obtain ⟨hf, ha, hp, ho, hwa, hwr⟩ := ih hys h
      refine ⟨by rw [hf]; simp [clearCell, writePixel], ?_, ?_, ?_, ?_, ?_⟩
      · intro x
        rw [ha x]
        simp only [clearCell_acc, writePixel_acc, Cells.get_set]
        by_cases h1 : x ∈ ys
        · simp [h1]
        · by_cases h2 : x = y
          · subst h2; simp [h1]
          · simp [h1, h2]
      · intro x hx'
        rcases List.mem_cons.1 hx' with rfl | hx'
        · refine ⟨px, hpx, hlen, ?_⟩
          intro k hk
          rw [ho _ (by rwa [show (4 * x + k) / 4 = x by omega])]
          simp only [clearCell_rb, writePixel_rb, Cells.get_setRange, hlen]
          rw [if_pos (by omega), show 4 * x + k - 4 * x = k by omega]
        · obtain ⟨qx, hq, hl, hk⟩ := hp x hx'
          refine ⟨qx, ?_, hl, hk⟩
          have hne : x ≠ y := fun e => hy (e ▸ hx')
          rw [← hq]
          exact (columnPixel_congr (s := s) (t := clearCell y (writePixel y px s)) rfl rfl rfl
            (Cells.get_set_ne s.acc 0 hne)).symm
      · intro a hna
        rw [List.mem_cons, not_or] at hna
        rw [ho a hna.2]
        simp only [clearCell_rb, writePixel_rb, Cells.get_setRange, hlen]
        rw [if_neg (by omega)]
      · intro hw
        exact hwa (by simpa using Cells.wf_set hw _ _)
      · intro hw
        exact hwr (by simpa using Cells.wf_setRange px hw _)
    · cases h

/-- The resolver runs through when every pixel has its colour. -/
theorem resolveColumns_runs {xs : List Nat} (hx : xs.Nodup) {s : State}
    (h : ∀ x, x ∈ xs → columnPixel s x ≠ none) : ∃ t, resolveColumns xs s = .ok () t := by
  induction xs generalizing s with
  | nil => exact ⟨s, rfl⟩
  | cons y ys ih =>
    obtain ⟨hy, hys⟩ := List.nodup_cons.1 hx
    obtain ⟨px, hpx⟩ := Option.ne_none_iff_exists'.1 (h y (by simp))
    unfold resolveColumns resolveColumn
    rw [hpx]
    apply ih hys
    intro x hx'
    have hne : x ≠ y := fun e => hy (e ▸ hx')
    have := columnPixel_congr (s := s) (t := clearCell y (writePixel y px s)) (x := x) rfl rfl rfl
      (Cells.get_set_ne s.acc 0 hne)
    rw [this]
    exact h x (by simp [hx'])

/-- The resolver's only stop is the fault of an unwritten palette entry. -/
theorem resolveColumns_stop {xs : List Nat} {s : State} {o : Host.Outcome State Fault Refusal}
    (h : resolveColumns xs s = .stop o) : o = .fault .paletteUnwritten := by
  induction xs generalizing s with
  | nil => cases h
  | cons y ys ih =>
    unfold resolveColumns at h
    split at h
    · exact ih h
    · next o' ho =>
      injection h with h
      subst h
      unfold resolveColumn at ho
      split at ho
      · cases ho
      · injection ho with ho; exact ho.symm

end Sys2Proof.Machine
end

