-- ==== Sys2Proof/Laws/Step.lean ====
section
/-! SUPPORT. Everything a step can do, said once: the decompression phase, the commands, the inputs, and
the step over them. The invariants are read off these. -/

namespace Sys2Proof.Machine

/-! ### The control instructions -/

/-- The decompression went on from s to t: SCR filled from OUTCNT on, CURSOR moved up, nothing else
but the hidden control offset. -/
structure Progress (s t : State) : Prop where
  frame : t = { s with scr := t.scr, outcnt := t.outcnt, cursor := t.cursor, ctrlOff := t.ctrlOff,
                       draws := t.draws }
  cursorUp : s.cursor ≤ t.cursor
  cursorBound : s.cursor ≤ s.latch.len → t.cursor ≤ s.latch.len
  canonical : Memory.wf s.scr → Memory.wf t.scr

theorem Progress.refl (s : State) : Progress s s :=
  ⟨rfl, BitVec.le_refl _, id, id⟩

theorem Progress.trans {s t u : State} (h1 : Progress s t) (h2 : Progress t u) : Progress s u where
  frame := by rw [h2.frame]; rw [h1.frame]
  cursorUp := BitVec.le_trans h1.cursorUp h2.cursorUp
  cursorBound h := by
    have hl : t.latch = s.latch := by rw [h1.frame]
    have := h2.cursorBound (by rw [hl]; exact h1.cursorBound h)
    rwa [hl] at this
  canonical h := h2.canonical (h1.canonical h)

theorem Copied.progress {n : Nat} {s t : State} (h : Copied n s t) : Progress s t where
  frame := by rw [h.frame]
  cursorUp := by have := h.cursor; simp only [BitVec.le_def]; omega
  cursorBound hb := by
    have := h.cursor
    have := h.bound
    simp only [BitVec.le_def] at hb ⊢
    omega
  canonical := h.canonical

theorem advance_progress {s : State} {d : Bool} (h : s.cursor < s.latch.len) :
    Progress s (advance d s) where
  frame := rfl
  cursorUp := by have := advance_cursor_toNat (d := d) h; simp only [BitVec.le_def]; omega
  cursorBound _ := by
    have := advance_cursor_toNat (d := d) h
    simp only [BitVec.lt_def, BitVec.le_def] at h ⊢
    omega
  canonical := id

theorem repeatByte_progress (v : Byte) (n : Nat) (s : State) : Progress s (repeatByte v n s) := by
  obtain ⟨hf, -, -, hw⟩ := repeatByte_spec v n s
  exact ⟨by rw [hf], by rw [hf]; exact BitVec.le_refl _, fun h => by rw [hf]; exact h, hw⟩

/-- An error entry raised after some progress. -/
def Raised (s t : State) : Prop :=
  ∃ u c o e f, Progress s u ∧ t = raiseError c o e f u

/-- Everything LIT can do (R102). -/
theorem execLit_next {n : BitVec 7} {s t : State} (h : execLit n s = .next t) :
    (s.outcnt + litCount n ≤ s.latch.target.toNat ∧ Copied (litCount n) s t) ∨ Raised s t := by
  unfold execLit at h
  split at h
  · injection h with h
    exact .inr ⟨s, _, _, _, _, .refl s, h.symm⟩
  · next hf =>
    simp only [overflows, decide_eq_true_eq, Nat.not_lt] at hf
    rcases copyBytes_cases (litCount n) s with ⟨u, he, hu⟩ | ⟨j, u, -, hu, -, he⟩ | ⟨j, u, -, -, -, -, he⟩
    · rw [he] at h
      injection h with h
      exact .inl ⟨hf, h ▸ hu⟩
    · rw [he] at h
      injection h with h
      exact .inr ⟨u, _, _, _, _, hu.progress, h.symm⟩
    · rw [he] at h; cases h

/-- Everything REP can do (R103). -/
theorem execRep_next {n : BitVec 7} {s t : State} (h : execRep n s = .next t) :
    (s.outcnt + repCount n ≤ s.latch.target.toNat ∧ Progress s t ∧
        t.outcnt = s.outcnt + repCount n) ∨ Raised s t := by
  unfold execRep at h
  split at h
  · injection h with h
    exact .inr ⟨s, _, _, _, _, .refl s, h.symm⟩
  · next hf =>
    simp only [overflows, decide_eq_true_eq, Nat.not_lt] at hf
    rcases readIn_cases s with ⟨-, hr⟩ | ⟨-, -, hr⟩ | ⟨hc, -, v, d, hr, -⟩
    · rw [hr] at h
      injection h with h
      exact .inr ⟨s, _, _, _, _, .refl s, h.symm⟩
    · rw [hr] at h; cases h
    · rw [hr] at h
      injection h with h
      subst h
      refine .inl ⟨hf, (advance_progress hc).trans (repeatByte_progress v _ _), ?_⟩
      rw [(repeatByte_spec v (repCount n) (advance d s)).1]
      rfl

/-- Everything COPY can do (R105). A completed one that had bytes to copy consumed them. -/
theorem execCopy_next {s t : State} (h : execCopy s = .next t) :
    (Progress s t ∧ t.outcnt = s.latch.target.toNat ∧
        (0 < s.latch.target.toNat → s.cursor < t.cursor ∧ t.cursor ≤ s.latch.len)) ∨ Raised s t := by
  have h0 : Progress s { s with outcnt := 0 } := ⟨rfl, BitVec.le_refl _, id, id⟩
  unfold execCopy at h
  rcases copyBytes_cases s.latch.target.toNat { s with outcnt := 0 } with
    ⟨u, he, hu⟩ | ⟨j, u, -, hu, -, he⟩ | ⟨j, u, -, -, -, -, he⟩
  · rw [he] at h
    injection h with h
    subst h
    refine .inl ⟨h0.trans hu.progress, by rw [hu.frame]; simp, fun hpos => ?_⟩
    have hc := hu.cursor
    have hb := hu.bound
    simp only at hc hb
    simp only [BitVec.lt_def, BitVec.le_def]
    omega
  · rw [he] at h
    injection h with h
    exact .inr ⟨u, _, _, _, _, h0.trans hu.progress, h.symm⟩
  · rw [he] at h; cases h

/-- A decoded control byte is LIT, NOP or REP. -/
theorem decodeControl_cases (b : Byte) :
    (∃ n, decodeControl b = .lit n) ∨ decodeControl b = .nop ∨ (∃ n, decodeControl b = .rep n) := by
  unfold decodeControl
  split
  · exact .inl ⟨_, rfl⟩
  · split
    · exact .inr (.inl rfl)
    · exact .inr (.inr ⟨_, rfl⟩)

/-- Everything one iteration of R101's loop can do. A completed one consumed its control byte. -/
theorem fetchControl_next {s t : State} (h : fetchControl s = .next t) :
    (Progress s t ∧ (s.cursor < t.cursor ∧ t.cursor ≤ s.latch.len) ∧ s.outcnt ≤ t.outcnt ∧
        (t.outcnt ≤ s.latch.target.toNat ∨ t.outcnt = s.outcnt)) ∨ Raised s t := by
  have hm : Progress s (markControl s) := ⟨rfl, BitVec.le_refl _, id, id⟩
  have up : ∀ {d u}, s.cursor < s.latch.len → Progress (advance d (markControl s)) u →
      s.cursor < u.cursor ∧ u.cursor ≤ s.latch.len := by
    intro d u hc hp
    have h1 := advance_cursor_toNat (s := markControl s) (d := d) hc
    have h2 := hp.cursorUp
    have h3 := (advance_progress (s := markControl s) (d := d) hc).trans hp |>.cursorBound
      (BitVec.le_of_lt hc)
    refine ⟨?_, h3⟩
    simp only [BitVec.lt_def, BitVec.le_def, markControl_cursor] at h1 h2 ⊢
    omega
  unfold fetchControl at h
  rcases readIn_cases (markControl s) with ⟨-, hr⟩ | ⟨-, -, hr⟩ | ⟨hc, -, v, d, hr, -⟩
  · rw [hr] at h
    injection h with h
    exact .inr ⟨_, _, _, _, _, hm, h.symm⟩
  · rw [hr] at h; cases h
  · rw [hr] at h
    have ha := hm.trans (advance_progress (d := d) hc)
    have raised : Raised (advance d (markControl s)) t → Raised s t := by
      rintro ⟨u, c, o, e, f, hp, rfl⟩
      exact ⟨u, c, o, e, f, ha.trans hp, rfl⟩
    rcases decodeControl_cases v with ⟨n, hd⟩ | hd | ⟨n, hd⟩
    · simp only [hd, exec] at h
      rcases execLit_next h with ⟨hf, hcop⟩ | hr
      · have ho : t.outcnt = s.outcnt + litCount n := by rw [hcop.frame]; rfl
        refine .inl ⟨ha.trans hcop.progress, up hc hcop.progress, by omega, .inl ?_⟩
        rw [ho]; exact hf
      · exact .inr (raised hr)
    · simp only [hd, exec, execNop] at h
      injection h with h
      subst h
      exact .inl ⟨ha, up hc (.refl _), Nat.le_refl _, .inr rfl⟩
    · simp only [hd, exec] at h
      rcases execRep_next h with ⟨hf, hp, ho⟩ | hr
      · have ho' : t.outcnt = s.outcnt + repCount n := ho
        refine .inl ⟨ha.trans hp, up hc hp, by omega, .inl ?_⟩
        rw [ho']; exact hf
      · exact .inr (raised hr)

/-- Everything the decompression phase can do. -/
theorem decompressStep_next {s t : State} (h : decompressStep s = .next t) :
    (s.latch.target.toNat ≤ s.outcnt ∧ t = rowDecompressed s) ∨
    (s.outcnt < s.latch.target.toNat ∧ Progress s t ∧ t.outcnt ≤ s.latch.target.toNat) ∨
    (s.outcnt < s.latch.target.toNat ∧ Raised s t) := by
  unfold decompressStep at h
  split at h
  · next hlt =>
    split at h
    · rcases execCopy_next h with ⟨hp, ho⟩ | hr
      · exact .inr (.inl ⟨hlt, hp, by omega⟩)
      · exact .inr (.inr ⟨hlt, hr⟩)
    · rcases fetchControl_next h with ⟨hp, -, -, ho⟩ | hr
      · exact .inr (.inl ⟨hlt, hp, by omega⟩)
      · exact .inr (.inr ⟨hlt, hr⟩)
  · next hge =>
    injection h with h
    exact .inl ⟨by omega, h.symm⟩

/-! ### Commands -/

/-- Everything a command can do (R180). -/
theorem exec_command_next {w : Word} {i : Instr} {s t : State} (hw : decodeCommand w = some i)
    (h : exec i s = .next t) :
    (i = .start ∧ execStart s = .next t) ∨ (i = .step ∧ execStep s = .next t) ∨
      (i = .abort ∧ execAbort s = .next t) := by
  unfold decodeCommand at hw
  split at hw
  · injection hw with hw; subst hw; exact .inr (.inr ⟨rfl, h⟩)
  · split at hw
    · injection hw with hw; subst hw; exact .inl ⟨rfl, h⟩
    · split at hw
      · injection hw with hw; subst hw; exact .inr (.inl ⟨rfl, h⟩)
      · cases hw

/-- Everything START can do (R181, R182, R187). -/
theorem execStart_next {s t : State} (h : execStart s = .next t) :
    (s.state = .busy ∧ t = s) ∨
    (s.state ≠ .busy ∧ validate s.params (latchOf s.cfg) = none ∧ t = sessionReady (openSession s)) ∨
    (s.state ≠ .busy ∧ ∃ r, validate s.params (latchOf s.cfg) = some r ∧
      t = raiseError r.code r.offset r.expected r.found (openSession s)) := by
  unfold execStart at h
  split at h
  · next hb => injection h with h; exact .inl ⟨hb, h.symm⟩
  · next hb =>
    split at h
    · next r hr => injection h with h; exact .inr (.inr ⟨hb, r, hr, h.symm⟩)
    · next hr => injection h with h; exact .inr (.inl ⟨hb, hr, h.symm⟩)

/-- Everything STEP can do (R183, R185, R186, R187). -/
theorem execStep_next {s t : State} (h : execStep s = .next t) :
    (s.state = .idle ∧ t = raiseError .ordering 0 1 0 s) ∨
    (s.state = .ready ∧ t = acceptStep s) ∨
    (s.state = .done ∧ t = { s with rowValid := false }) ∨
    ((s.state = .busy ∨ s.state = .error) ∧ t = s) := by
  unfold execStep at h
  split at h <;> next hs => injection h with h; subst h; simp [hs]

/-- Everything ABORT can do (R188). -/
theorem execAbort_next {s t : State} (h : execAbort s = .next t) :
    (s.state = .idle ∧ t = { s with rowValid := false }) ∨ (s.state ≠ .idle ∧ t = closeSession s) := by
  unfold execAbort at h
  split at h
  · next hs => injection h with h; exact .inl ⟨hs, h.symm⟩
  · next hs => injection h with h; exact .inr ⟨hs, h.symm⟩

/-! ### Inputs -/

/-- A register read leaves the state as it was, but for a draw. -/
theorem readReg_ok {r : Reg} {s t : State} {v : Word} (h : readReg r s = .ok v t) :
    t = { s with draws := t.draws } := by
  unfold readReg at h
  split at h <;> (try split at h) <;> first
    | (injection h with _ h; subst h; rfl)
    | cases h

/-- A register read stops only at an unwritten palette entry. -/
theorem readReg_stop {r : Reg} {s : State} {o : Host.Outcome State Fault Refusal}
    (h : readReg r s = .stop o) : o = .fault .paletteUnwritten := by
  unfold readReg at h
  split at h <;> (try split at h) <;> first
    | (injection h with h; exact h.symm)
    | cases h

/-- Everything a read of the window can do. -/
theorem readAt_next {off : Nat} {s t : State} (h : readAt off s = .next t) :
    t = { s with reads := t.reads, draws := t.draws } := by
  unfold readAt at h
  split at h
  · injection h with h; subst h; rfl
  · split at h
    · next v u hu =>
      injection h with h
      subst h
      rw [deliver, readReg_ok hu]
    · next o ho => rw [readReg_stop ho] at h; cases h

/-- What the registers a host write can store into are: the configuration, or an open palette. -/
theorem writeReg_frame (r : Reg) (v : Word) (s : State) :
    writeReg r v s = { s with cfg := (writeReg r v s).cfg } ∨
    (sessionOpen s = false ∧ ∃ i : BitVec 8, writeReg r v s =
      { s with pal := Cells.set s.pal i.toNat (v.setWidth 24)
               palWritten := Cells.set s.palWritten i.toNat 1 }) := by
  unfold writeReg
  cases r <;> try exact .inl rfl
  next i =>
    simp only
    split
    · next hp => exact .inr ⟨by simpa [paletteOpen] using hp, i, rfl⟩
    · exact .inl rfl

/-- Everything a host write to the window can do. -/
theorem writeAt_next {off : Nat} {v : Word} {s t : State} (h : writeAt off v s = .next t) :
    t = { s with cfg := t.cfg } ∨
    (sessionOpen s = false ∧ ∃ (i : BitVec 8) (c : Rgb),
      t = { s with pal := Cells.set s.pal i.toNat c, palWritten := Cells.set s.palWritten i.toNat 1 }) ∨
    (decodeReg off = some .ctrl ∧ decodeCommand v = some .start ∧ execStart s = .next t) ∨
    (decodeReg off = some .ctrl ∧ decodeCommand v = some .step ∧ execStep s = .next t) ∨
    (decodeReg off = some .ctrl ∧ decodeCommand v = some .abort ∧ execAbort s = .next t) := by
  unfold writeAt at h
  split at h
  · injection h with h; subst h; exact .inl rfl
  · next hd =>
    split at h
    · next i hi =>
      rcases exec_command_next hi h with ⟨rfl, he⟩ | ⟨rfl, he⟩ | ⟨rfl, he⟩
      · exact .inr (.inr (.inl ⟨hd, hi, he⟩))
      · exact .inr (.inr (.inr (.inl ⟨hd, hi, he⟩)))
      · exact .inr (.inr (.inr (.inr ⟨hd, hi, he⟩)))
    · injection h with h; subst h; exact .inl rfl
  · next r _ _ =>
    injection h with h
    subst h
    rcases writeReg_frame r v s with hf | ⟨hs, i, hf⟩
    · exact .inl hf
    · exact .inr (.inl ⟨hs, i, _, hf⟩)

/-- Everything one input can do. -/
theorem takeInput_next {i : Input} {s t : State} (h : takeInput i s = .next t) :
    (∃ a w v off, i = .write a w v ∧ windowOffset s.params a w = .ok off ∧ writeAt off v s = .next t) ∨
    (((∃ a w, i = .read a w) ∨ i = .poll) ∧ t = { s with reads := t.reads, draws := t.draws }) ∨
    (i = .pause ∧ t = s) ∨
    (∃ a bs, i = .fill a bs ∧ a + bs.length ≤ s.params.inLen.toNat ∧ t = pokeAll a bs s) ∨
    (∃ b, i = .sink b ∧ t = { s with sinkReady := b }) ∨
    (i = .reset ∧ t = resetBlock s) := by
  unfold takeInput at h
  split at h
  · next a w v =>
    split at h
    · next off ho => exact .inl ⟨a, w, v, off, rfl, ho, h⟩
    · cases h
  · next a w =>
    split at h
    · exact .inr (.inl ⟨.inl ⟨a, w, rfl⟩, readAt_next h⟩)
    · cases h
  · exact .inr (.inl ⟨.inr rfl, readAt_next h⟩)
  · injection h with h; exact .inr (.inr (.inl ⟨rfl, h.symm⟩))
  · next a bs =>
    unfold fillIn at h
    split at h
    · next hl => injection h with h; exact .inr (.inr (.inr (.inl ⟨a, bs, rfl, hl, h.symm⟩)))
    · cases h
  · next b => injection h with h; exact .inr (.inr (.inr (.inr (.inl ⟨b, rfl, h.symm⟩))))
  · injection h with h; exact .inr (.inr (.inr (.inr (.inr ⟨rfl, h.symm⟩))))

/-- A host write that reaches CTRL is a 32-bit one at CTRL's own address. -/
theorem windowOffset_ctrl {p : Params} {a : Word} {w : AccessWidth} {off : Nat}
    (h : windowOffset p a w = .ok off) (hd : decodeReg off = some .ctrl) :
    a = regAddr p .ctrl ∧ w = .bits32 := by
  have h0 : off = 0 := by
    unfold decodeReg at hd
    split at hd
    · split at hd <;> cases hd
    · have hc := List.find?_some hd
      exact (beq_iff_eq.1 hc).symm
  unfold windowOffset at h
  split at h
  · cases h
  · next hin =>
    split at h
    · cases h
    · next hsh =>
      injection h with h
      refine ⟨?_, by simpa using fun e => hsh (.inl e)⟩
      apply BitVec.eq_of_toNat_eq
      simp only [regAddr, Reg.offset, BitVec.toNat_add, BitVec.toNat_ofNat]
      omega

/-- A pending write that reaches CTRL with a command's bits is that command taken (R26). -/
theorem TakesCommand.of_write {s : State} {a v : Word} {w : AccessWidth} {rest : List Input} {off : Nat}
    {i : Instr} (hr : rowStepRuns s = false) (hin : s.inputs = .write a w v :: rest)
    (ho : windowOffset s.params a w = .ok off) (hd : decodeReg off = some .ctrl)
    (hi : decodeCommand v = some i) : TakesCommand i s := by
  obtain ⟨rfl, rfl⟩ := windowOffset_ctrl ho hd
  exact ⟨hr, v, by rw [hin, List.head?_cons], hi⟩

/-! ### The wait for the sink -/

theorem mayBegin_enabled {s : State} (h : mayBegin s = true) : s.phase = .enabled := by
  simp only [mayBegin, Bool.and_eq_true, decide_eq_true_eq] at h
  exact h.1

theorem mayBegin_of_ready {s : State} (hp : s.phase = .enabled) (hs : s.sinkReady = true) :
    mayBegin s = true := by
  simp [mayBegin, hp, hs]

/-- One iteration of a decompression that does not fill the row is one that does not either. -/
theorem completes_next {s t : State} (h : decompressStep s = .next t) (hf : ∀ n, completes n s = false) :
    t.phase ≠ .deinterleave ∧ (t.phase = .decompress → ∀ n, completes n t = false) := by
  have key : ∀ n, (decide (t.phase = .deinterleave) || (decide (t.phase = .decompress) && completes n t)) =
      false := by
    intro n
    have := hf (n + 1)
    rwa [completes, h] at this
  refine ⟨fun hd => ?_, fun hp n => ?_⟩
  · have := key 0
    simp [hd] at this
  · have := key n
    simpa [hp] using this

/-- An iteration that goes on consumed a byte (R106). -/
theorem decompressStep_goes_on {s t : State} (h : decompressStep s = .next t)
    (ht : t.phase = .decompress) :
    t.latch = s.latch ∧ s.cursor < t.cursor ∧ t.cursor ≤ s.latch.len := by
  have raised : ¬ Raised s t := by
    rintro ⟨u, c, o, e, f, -, rfl⟩
    cases ht
  unfold decompressStep at h
  split at h
  · next hlt =>
    split at h
    · rcases execCopy_next h with ⟨hp, -, hc⟩ | hr
      · exact ⟨by rw [hp.frame], hc (by omega)⟩
      · exact absurd hr raised
    · rcases fetchControl_next h with ⟨hp, hc, -, -⟩ | hr
      · exact ⟨by rw [hp.frame], hc⟩
      · exact absurd hr raised
  · injection h with h
    subst h
    cases ht

/-- S.LEN − CURSOR + 1 iterations are enough to see that a decompression fills its row (R106). -/
theorem completes_bounded {n m : Nat} {s : State} (h : completes n s = true)
    (hm : s.latch.len.toNat - s.cursor.toNat + 1 ≤ m) : completes m s = true := by
  induction n generalizing s m with
  | zero => cases h
  | succ n ih =>
    obtain ⟨m, rfl⟩ : ∃ k, m = k + 1 := ⟨m - 1, by omega⟩
    unfold completes at h ⊢
    split at h
    · next t ht =>
      simp only [Bool.or_eq_true, Bool.and_eq_true, decide_eq_true_eq] at h ⊢
      refine h.imp id fun hc => ⟨hc.1, ih hc.2 ?_⟩
      obtain ⟨hl, h1, h2⟩ := decompressStep_goes_on ht hc.1
      rw [hl]
      simp only [BitVec.lt_def, BitVec.le_def] at h1 h2
      omega
    · cases h
    · cases h

/-- A row step that begins while the sink stalls is one whose decompression never fills its row. -/
theorem mayBegin_stalled {s : State} (h : mayBegin s = true) (hs : s.sinkReady = false) (n : Nat) :
    completes n (beginRow s) = false := by
  simp only [mayBegin, hs, Bool.false_or, Bool.and_eq_true, Bool.not_eq_true'] at h
  cases hc : completes n (beginRow s) with
  | false => rfl
  | true =>
    have := completes_bounded hc (Nat.le_refl _)
    rw [← h.2]
    exact this.symm

/-! ### The step -/

/-- Everything a step can do. -/
theorem step_next {s t : State} (h : step s = .next t) :
    (s.phase = .decompress ∧ decompressStep s = .next t) ∨
    (s.phase = .deinterleave ∧ t = deinterleave s) ∨
    (s.phase = .resolve ∧ ∃ u, resolveColumns (List.range s.latch.width.toNat) s = .ok () u ∧
      t = rowResolved u) ∨
    (s.phase = .handoff ∧ s.sinkReady = true ∧ t = handoff s) ∨
    (rowStepRuns s = false ∧ mayBegin s = true ∧ t = beginRow s) ∨
    (rowStepRuns s = false ∧ t = s) ∨
    (rowStepRuns s = false ∧ ∃ i rest, s.inputs = i :: rest ∧
      takeInput i { s with inputs := rest } = .next t) := by
  have wait : ∀ {r}, r = rowStepRuns s → r = false → waitStep s = .next t →
      (rowStepRuns s = false ∧ mayBegin s = true ∧ t = beginRow s) ∨
      (rowStepRuns s = false ∧ t = s) := by
    intro r hr hf hw
    unfold waitStep at hw
    split at hw
    · next he => injection hw with hw; exact .inl ⟨hr ▸ hf, he, hw.symm⟩
    · injection hw with hw; exact .inr ⟨hr ▸ hf, hw.symm⟩
  have input : rowStepRuns s = false → inputStep s = .next t →
      (rowStepRuns s = false ∧ mayBegin s = true ∧ t = beginRow s) ∨
      (rowStepRuns s = false ∧ t = s) ∨
      (rowStepRuns s = false ∧ ∃ i rest, s.inputs = i :: rest ∧
        takeInput i { s with inputs := rest } = .next t) := by
    intro hr hi
    unfold inputStep at hi
    split at hi
    · rcases wait rfl hr hi with h | h
      · exact .inl h
      · exact .inr (.inl h)
    · next i rest hin =>
      split at hi
      · rcases wait rfl hr hi with h | h
        · exact .inl h
        · exact .inr (.inl h)
      · refine .inr (.inr ⟨hr, i, rest, hin, ?_⟩)
        rwa [popInput, hin] at hi
  unfold step machineStep at h
  split at h
  · next hp => exact .inl ⟨hp, h⟩
  · next hp => injection h with h; exact .inr (.inl ⟨hp, h.symm⟩)
  · next hp =>
    unfold resolveRow at h
    split at h
    · next u hu => injection h with h; exact .inr (.inr (.inl ⟨hp, u, hu, h.symm⟩))
    · next o ho => rw [resolveColumns_stop ho] at h; cases h
  · next hp =>
    split at h
    · next hs => injection h with h; exact .inr (.inr (.inr (.inl ⟨hp, hs, h.symm⟩)))
    · next hs =>
      exact .inr (.inr (.inr (.inr (input (by simp [rowStepRuns, hp, hs]) h))))
  · next hp => exact .inr (.inr (.inr (.inr (input (by simp [rowStepRuns, hp]) h))))
  · next hp => exact .inr (.inr (.inr (.inr (input (by simp [rowStepRuns, hp]) h))))

/-- A run whose first step is known. -/
theorem steps_succ {s t : State} (h : step s = .next t) (k : Nat) : steps (k + 1) s = steps k t := by
  rw [steps, h]

end Sys2Proof.Machine
end

