-- ==== Sys2Proof/Tests/Slice0.lean ====
section
/-! SUPPORT. Tests on the spec's own vectors (95_test_vectors.md), and for every statement with hypotheses a
state and operands that meet them. -/

namespace Sys2Proof.Tests

open Sys2Proof Sys2Proof.Machine

/-! ### Small states -/

/-- The base configuration of 95_test_vectors.md 2.8. -/
def cfg : Cfg :=
  { width := 8, height := 1, planes := 1, masking := 0, compression := 0, tcolor := 0, payloadBase := 0,
    payloadLen := 2, palCount := 2 }

/-- IDLE with a configuration, IN_LEN = n. -/
def idle (c : Cfg) (n : Nat := 2) : State :=
  { State.reset with params := { State.reset.params with inLen := BitVec.ofNat 32 n }, cfg := c }

/-- The latches of a unit vector: S.TARGET and S.LEN given directly. -/
def unitLatch (comp : Byte) (target len : Nat) : Latch :=
  { State.reset.latch with comp := comp, target := BitVec.ofNat 32 target, len := BitVec.ofNat 32 len }

/-- A unit vector of the decompressor: a row step over `bytes` with S.TARGET = target. -/
def unit (comp : Byte) (target : Nat) (bytes : List Byte) : State :=
  { State.reset with
    inp := Cells.setRange (w := 8) [] 0 bytes
    latch := unitLatch comp target bytes.length
    state := .busy
    phase := .decompress }

/-- A unit vector after its control byte was read: CURSOR 1, OUTCNT as given. -/
def operand (target outcnt : Nat) (bytes : List Byte) : State :=
  { unit 1 target bytes with cursor := 1, outcnt := outcnt }

/-- The latches of a session of one row: 8 columns, 1 plane, a payload of 2 bytes. -/
def latch : Latch :=
  { width := 8, height := 1, planes := 1, mask := 0, comp := 0, tcolor := 0, base := 0, len := 2,
    palCount := 2, stride := 2, eff := 1, target := 2 }

/-- PAL[0] = 0x000000, PAL[1] = 0x112233, both written. -/
def loaded : State :=
  { State.reset with pal := [(1, 0x112233)], palWritten := [(0, 1), (1, 1)], latch := latch }

/-- That session in a given phase of its row step. -/
def row (p : Phase) (outcnt : Nat := 2) : State :=
  { loaded with
    inp := [(0, 0xAA)], scr := if outcnt = 0 then [] else [(0, 0xAA)], state := .busy, phase := p,
    outcnt := outcnt, cursor := BitVec.ofNat 32 outcnt }

/-- That session between two row steps. -/
def between (st : SessState) (y : Half := 0) : State := { loaded with state := st, row := y }

/-- A resolve with S.MASK, S.PLANES, S.TCOLOR and one column holding `raw`. -/
def resolving (mask planes : Byte) (tcolor : Half) (raw : AccCell) : State :=
  { loaded with
    latch := { latch with mask := mask, planes := planes, tcolor := tcolor, width := 1 }
    state := .busy, phase := .resolve, acc := Cells.set [] 0 raw
    pal := [(1, 0x112233), (5, 0x445566), (255, 0xABCDEF)]
    palWritten := [(0, 1), (1, 1), (5, 1), (255, 1)] }

/-- A deinterleave of `scr` with S.PLANES, S.EFF, S.WIDTH and ACC_WIDTH. -/
def deinterleaving (planes : Byte) (eff width : Half) (w : AccWidth) (scr : List Byte) : State :=
  { loaded with
    params := { State.reset.params with accWidth := w }
    latch := { latch with planes := planes, mask := if eff = planes.setWidth 16 then 0 else 1, eff := eff,
                          width := width, target := BitVec.ofNat 32 scr.length }
    state := .busy, phase := .deinterleave, scr := Cells.setRange (w := 8) [] 0 scr
    outcnt := scr.length }

/-- The state with one pending input. -/
def given (i : Input) (s : State) : State := { s with inputs := [i] }

/-- The first k bytes of SCR. -/
def scrBytes (k : Nat) (s : State) : List Byte := (List.range k).map (Cells.get (w := 8) s.scr)

/-- The first k cells of ACC. -/
def accCells (k : Nat) (s : State) : List AccCell := (List.range k).map (Cells.get s.acc)

/-- The error record as 95_test_vectors.md lists it. -/
def record (s : State) : Nat × Nat × Nat × Nat :=
  (s.err.code.toNat, s.err.offset.toNat, s.err.expected.toNat, s.err.found.toNat)

/-! ### Well-formedness and decoding -/

/-- REP with N = 0 is NOP's byte, no REP. -/
theorem test_ill_formed_rep : (Instr.rep 0).wf = false := by decide

/-- R86's and R87's refusals: LIT of no byte, REP of 1 and of 129, FILL and COPY of nothing. -/
theorem test_assembler_refuses :
    assemble (.lit []) = none ∧ assemble (.rep 1 0) = none ∧ assemble (.rep 129 0) = none ∧ assemble (.fill 0 0) = none ∧
      assemble (.copy []) = none := by decide

/-- 95 2.1: control bytes, bit by bit, to their form and count. -/
theorem test_control_bytes :
    decodeControl 0b00000000 = .lit 0 ∧ litCount 0 = 1 ∧
    decodeControl 0b00000001 = .lit 1 ∧ litCount 1 = 2 ∧
    decodeControl 0b01111111 = .lit 127 ∧ litCount 127 = 128 ∧
    decodeControl 0b10000000 = .nop ∧
    decodeControl 0b10000001 = .rep 1 ∧ repCount 1 = 128 ∧
    decodeControl 0b11000000 = .rep 64 ∧ repCount 64 = 65 ∧
    decodeControl 0b11010101 = .rep 0b1010101 ∧ repCount 0b1010101 = 44 ∧
    decodeControl 0b11111110 = .rep 126 ∧ repCount 126 = 3 ∧
    decodeControl 0b11111111 = .rep 127 ∧ repCount 127 = 2 := by decide

/-- R10, R80: the test of bit 7 and the signed reading agree on every byte. -/
theorem test_signed_reading : ∀ b : Byte, decodeControlSigned b = decodeControl b := by decide

/-- 95 2.7: CTRL values to commands. -/
theorem test_commands :
    [0x0, 0x1, 0x2, 0x3, 0x4, 0x5, 0x6, 0x7, 0x8, 0xA, 0xFFFFFFF9].map decodeCommand =
      [none, some .start, some .step, some .start, some .abort, some .abort, some .abort, some .abort,
        none, some .step, some .start] := by decide

/-- R84: S.COMP = 0 selects COPY. -/
theorem test_mode : decodeEncoded (.mode 0) = some .copy ∧ decodeEncoded (.mode 1) = none := by decide

/-- The table's words, numbered as it numbers them. -/
theorem test_table_words :
    decodeTableWord 8 0x00 = some (.lit 0) ∧ decodeTableWord 8 0x80 = some .nop ∧
      decodeTableWord 8 0xFF = some (.rep 127) ∧ decodeTableWord 0 0 = some .copy ∧
      decodeTableWord 32 0x1 = some .start ∧ decodeTableWord 32 0x2 = some .step ∧
      decodeTableWord 32 0x4 = some .abort ∧ decodeTableWord 32 0x8 = none := by
  decide +kernel

/-- R25: offsets of registers, and unmapped ones. -/
theorem test_offsets :
    decodeReg 0x000 = some .ctrl ∧ decodeReg 0x05C = some .target ∧ decodeReg 0x018 = none ∧
      decodeReg 0x044 = none ∧ decodeReg 0x3FC = none ∧ decodeReg 0x400 = some (.palette 0) ∧
      decodeReg 0x7FC = some (.palette 255) ∧ decodeReg 0x800 = none := by decide

/-- 95 S5: FILL and COPY. -/
theorem test_pseudo :
    assemble (.fill 300 0) = some [0x81, 0, 0x81, 0, 0xD5, 0] ∧
      assemble (.fill 129 0x5A) = some [0x81, 0x5A, 0x00, 0x5A] ∧
      assemble (.copy [0xAA, 0xBB]) = some [0x01, 0xAA, 0xBB] := by decide

/-- 95 2.4: STRIDE and TARGET. -/
theorem test_stride :
    ([0, 1, 8, 15, 16, 17, 32, 33, 320, 640, 65535].map strideOf =
      [0, 2, 2, 2, 2, 4, 4, 6, 40, 80, 8192]) ∧
    targetOf (strideOf 320) (effOf 8 1) = 360 ∧ targetOf (strideOf 65535) (effOf 8 1) = 73728 := by decide

/-! ### One step on the spec's vectors -/

/-- 95 S2: LIT from the placed stream copies its operand bytes. -/
theorem test_lit : nextHas (step (unit 1 3 [0x02, 0xAA, 0xBB, 0xCC]))
    (fun t => scrBytes 3 t == [0xAA, 0xBB, 0xCC] && t.outcnt == 3 && t.cursor == 4) = true := by decide

/-- 95 V10: OVERRUN part-way through a LIT. -/
theorem test_lit_overrun : nextHas (step (unit 1 4 [0x03, 0x11, 0x22]))
    (fun t => t.state == .error && record t == (0x109, 3, 4, 2) && t.cursor == 3) = true := by decide

/-- 95 S3: the data byte 0x80 is data. -/
theorem test_rep : nextHas (step (unit 1 3 [0xFE, 0x80]))
    (fun t => scrBytes 3 t == [0x80, 0x80, 0x80] && t.outcnt == 3 && t.cursor == 2) = true := by decide

/-- 95 V12: RUN_OVERFLOW before the missing data byte is read. -/
theorem test_rep_overflow : nextHas (step (unit 1 2 [0x81]))
    (fun t => t.state == .error && record t == (0x10A, 0, 2, 128) && t.cursor == 1) = true := by decide

/-- 95 S4: NOP moves CURSOR only. -/
theorem test_nop : nextHas (step (unit 1 2 [0x80, 0xFF, 0x41]))
    (fun t => t.outcnt == 0 && t.cursor == 1 && t.scr.isEmpty) = true := by decide

/-- 95 V20, V21: COPY decodes nothing, and overruns a short payload. -/
theorem test_copy : nextHas (step (unit 0 4 [0x80, 0xFF, 0x00, 0x7F]))
    (fun t => scrBytes 4 t == [0x80, 0xFF, 0x00, 0x7F] && t.cursor == 4) = true := by decide

theorem test_copy_overrun : nextHas (step (unit 0 4 [0x80, 0xFF, 0x00]))
    (fun t => record t == (0x109, 3, 4, 3) && t.cursor == 3) = true := by decide

/-- 95 K1, K9: START opens a session. -/
theorem test_start : nextHas (exec .start (idle cfg))
    (fun t => t.state == .ready && t.latch.target == 2 && record t == (0, 0, 0, 0)) = true := by decide

/-- 95 K4: the third check, not the fourth, is not even reached. -/
theorem test_start_refused : nextHas (exec .start (idle { cfg with compression := 2, masking := 3 }))
    (fun t => t.state == .error && record t == (0x203, 0, 1, 2) && t.row == 0) = true := by decide

/-- 95 T1 and S9: STEP right after reset. -/
theorem test_step_idle : nextHas (exec .step State.reset)
    (fun t => t.state == .error && record t == (0x301, 0, 1, 0)) = true := by decide

/-- R222: ACC holds 0 in every cell after ORDERING, also where an ABORT left it unspecified. -/
theorem test_step_idle_clears_acc : nextHas (exec .step { State.reset with acc := [(0, 5)] })
    (fun t => accCells 2 t == [0, 0]) = true := by decide

/-- 95 T8: STEP in DONE. -/
theorem test_step_done : nextHas (exec .step { between .done 1 with rowValid := true })
    (fun t => t.state == .done && !t.rowValid && t.out.isEmpty) = true := by decide

/-- 95 T7: ABORT in BUSY. -/
theorem test_abort : nextHas (exec .abort (row .decompress 0))
    (fun t => t.state == .idle && t.phase == .idle && t.out.isEmpty) = true := by decide

/-- 95 T3: ABORT in ERROR keeps the record. -/
theorem test_abort_error : nextHas (exec .abort
      { between .error with err := { code := 0x109, offset := 3, expected := 2, found := 0 } })
    (fun t => t.state == .idle && record t == (0x109, 3, 2, 0)) = true := by decide

/-- 95 D2, and D4's SCR. D4 prints 3 3 2 2 1 1 0 0; its own bits (F0, CC) and its own formula p0 + 2·p1, which
is R142's, give 3 3 1 1 2 2 0 0 (log 23). -/
theorem test_deinterleave :
    nextHas (step (deinterleaving 1 1 3 .nine [0xBF, 0xFF])) (fun t => accCells 4 t == [1, 0, 1, 0]) = true ∧
    nextHas (step (deinterleaving 2 2 8 .nine [0xF0, 0x00, 0xCC, 0x00]))
      (fun t => accCells 8 t == [3, 3, 1, 1, 2, 2, 0, 0]) = true := by decide

/-- 95 D6, D7: the mask plane of an 8-plane image, for both widths of a cell. -/
theorem test_mask_plane :
    let scr : List Byte := (List.replicate 8 [0x80, 0x00]).flatten ++ [0xC0, 0x00]
    nextHas (step (deinterleaving 8 9 8 .nine scr)) (fun t => accCells 3 t == [0x1FF, 0x100, 0]) = true ∧
    nextHas (step (deinterleaving 8 9 8 .eight scr)) (fun t => accCells 3 t == [0xFF, 0, 0]) = true := by
  decide +kernel

/-- The pixel of column 0 after a resolve. -/
def pixel (s : State) : List Byte :=
  match step s with
  | .next t => (List.range 4).map (Cells.get (w := 8) t.rb)
  | .fault _ => []
  | .refused _ => []

/-- 95 X1–X14. -/
theorem test_resolve :
    pixel (resolving 0 1 0 0) = [0, 0, 0, 0xFF] ∧ pixel (resolving 0 1 0 1) = [0x11, 0x22, 0x33, 0xFF] ∧
    pixel (resolving 1 1 0 2) = [0, 0, 0, 0] ∧ pixel (resolving 1 1 0 3) = [0x11, 0x22, 0x33, 0xFF] ∧
    pixel (resolving 1 1 0 0) = [0, 0, 0, 0xFF] ∧ pixel (resolving 1 8 0 0x100) = [0, 0, 0, 0] ∧
    pixel (resolving 1 8 0 0x1FF) = [0xAB, 0xCD, 0xEF, 0xFF] ∧ pixel (resolving 2 3 5 5) = [0, 0, 0, 0] ∧
    pixel (resolving 2 3 0 0) = [0, 0, 0, 0] ∧ pixel (resolving 2 8 0x0105 5) = [0x44, 0x55, 0x66, 0xFF] := by
  decide

/-- The word of each row of the table runs as the first instruction after reset. -/
theorem test_placed :
    nextHas (step (State.reset.withFetchWord 8 0x00)) (fun t => t.outcnt == 1 && t.cursor == 2) = true ∧
    nextHas (step (State.reset.withFetchWord 8 0x80)) (fun t => t.outcnt == 0 && t.cursor == 1) = true ∧
    nextHas (step (State.reset.withFetchWord 8 0xFF)) (fun t => t.outcnt == 2 && t.cursor == 2) = true ∧
    nextHas (step (State.reset.withFetchWord 0 0)) (fun t => t.outcnt == 128 && t.cursor == 128) = true ∧
    nextHas (step (State.reset.withFetchWord 32 0x1)) (fun t => record t == (0x202, 0, 8, 0)) = true ∧
    nextHas (step (State.reset.withFetchWord 32 0x2)) (fun t => record t == (0x301, 0, 1, 0)) = true ∧
    nextHas (step (State.reset.withFetchWord 32 0x4)) (fun t => t.state == .idle) = true := by
  decide +kernel

/-! ### Witnesses: a state and operands that meet each statement's hypotheses -/

/-- ControlByteSelectsForm, EveryControlByteDefined: both ends of each range. -/
theorem test_meets_control_byte :
    0 ≤ (0x00 : Byte).toInt ∧ 0 ≤ (0x7F : Byte).toInt ∧ (0x80 : Byte).toInt = -128 ∧
      (-128 < (0x81 : Byte).toInt ∧ (0x81 : Byte).toInt < 0) ∧
      (-128 < (0xFF : Byte).toInt ∧ (0xFF : Byte).toInt < 0) := by decide

/-- OperandsFollowControlByte: 1 and 128 operands, 1 and none. -/
theorem test_meets_operands :
    ([0] : List Byte).length = operandBytes (decodeControl 0x00) ∧
      (List.replicate 128 (0 : Byte)).length = operandBytes (decodeControl 0x7F) ∧
      ([0] : List Byte).length = operandBytes (decodeControl 0x81) ∧
      ([] : List Byte).length = operandBytes (decodeControl 0x80) := 
  ⟨rfl, by rw [List.length_replicate]; decide, rfl, rfl⟩

/-- RunCountsFromControlByte. -/
theorem test_meets_run_counts :
    decodeControl 0x00 = .lit 0 ∧ decodeControl 0x7F = .lit 127 ∧ decodeControl 0x81 = .rep 1 ∧
      decodeControl 0xFF = .rep 127 ∧ decodeControl 0x80 = .nop := by decide

/-- CommandWordSelectsCommand: a word for each row, high bits set. -/
theorem test_meets_command_word :
    (0xFFFFFFFF : Word).getLsbD 2 = true ∧
      ((0xFFFFFFFB : Word).getLsbD 2 = false ∧ (0xFFFFFFFB : Word).getLsbD 0 = true) ∧
      ((0xFFFFFFFA : Word).getLsbD 2 = false ∧ (0xFFFFFFFA : Word).getLsbD 0 = false ∧
        (0xFFFFFFFA : Word).getLsbD 1 = true) ∧
      ((0xFFFFFFF8 : Word).getLsbD 2 = false ∧ (0xFFFFFFF8 : Word).getLsbD 0 = false ∧
        (0xFFFFFFF8 : Word).getLsbD 1 = false) := by decide

/-- DecodeInvertsEncode: a well-formed instruction of each space; a LIT of one operand byte. -/
theorem test_meets_round_trip :
    (Instr.lit 0).wf = true ∧ encode (.lit 0) = .control 0x00 ∧ [(0xAA : Byte)].length = operandBytes (.lit 0) ∧
      (Instr.rep 1).wf = true ∧ encode (.rep 1) = .control 0x81 ∧ Instr.copy.wf = true ∧
      Instr.abort.wf = true := by decide

/-- RegisterOffsetsAreExact: both sides hold at the ends of the window. -/
theorem test_meets_offsets :
    decodeReg 0 = some .ctrl ∧ Reg.ctrl.offset = 0 ∧ (Reg.palette 255).offset = 0x7FC := by decide

/-- PseudoInstructionsExpand: the expansions of 95 S5, and of FILL 128, run by run. -/
theorem test_fill_runs :
    fillRuns 300 0 = [.rep 128 0, .rep 128 0, .rep 44 0] ∧ fillRuns 129 0x5A = [.rep 128 0x5A, .lit [0x5A]] ∧
      fillRuns 128 7 = [.rep 128 7] ∧ fillRuns 1 7 = [.lit [7]] := by decide

/-- AssembledLinesDecode, PseudoInstructionsExpand: the ends of each range of lengths. -/
theorem test_meets_lines :
    (1 ≤ ([0] : List Byte).length ∧ (List.replicate 128 (0 : Byte)).length ≤ 128) ∧
      ([] : List Byte).length = 0 ∧ 128 < (List.replicate 129 (0 : Byte)).length ∧
      (2 ≤ 2 ∧ 128 ≤ 128) ∧ 1 < 2 ∧ 128 < 129 ∧ 1 ≤ 1 :=
  ⟨⟨by decide, by simp⟩, rfl, by simp, by decide, by decide, by decide, by decide⟩

/-- ReadInIsBounded: at the end of the payload, and at its last byte. -/
theorem test_meets_read_in :
    (unit 1 2 []).latch.len ≤ (unit 1 2 []).cursor ∧
      Readable 1 (unit 1 2 [0x41]) ∧ Cells.get (unit 1 2 [0x41]).touched (payloadAddr (unit 1 2 [0x41])) = 0 :=
  ⟨by decide, ⟨by decide, by decide⟩, by decide⟩

/-- LitCopiesOrRaises (n = 1, two bytes): exactly fitting, one byte too long, one byte missing. -/
theorem test_meets_lit :
    (let s := operand 3 1 [0x01, 0xAA, 0xBB];
      s.outcnt + ((1 : BitVec 7).toNat + 1) ≤ s.latch.target.toNat ∧ Readable ((1 : BitVec 7).toNat + 1) s) ∧
    (let s := operand 2 1 [0x01, 0xAA, 0xBB];
      s.latch.target.toNat < s.outcnt + ((1 : BitVec 7).toNat + 1)) ∧
    (let s := operand 3 1 [0x01, 0xAA];
      1 < (1 : BitVec 7).toNat + 1 ∧ s.outcnt + ((1 : BitVec 7).toNat + 1) ≤ s.latch.target.toNat ∧
        Readable 1 s ∧ s.cursor.toNat + 1 = s.latch.len.toNat ∧ s.state = .busy) :=
  ⟨⟨by decide, by decide, by decide⟩, by decide, by decide, by decide, ⟨by decide, by decide⟩, by decide, by decide⟩

/-- RepRepeatsOrRaises (n = 127, two bytes): exactly fitting, one too long, data byte missing. -/
theorem test_meets_rep :
    (127 : BitVec 7) ≠ 0 ∧
    (let s := operand 2 0 [0xFF, 0x41];
      s.outcnt + (129 - (127 : BitVec 7).toNat) ≤ s.latch.target.toNat ∧ Readable 1 s) ∧
    (let s := operand 1 0 [0xFF, 0x41];
      s.latch.target.toNat < s.outcnt + (129 - (127 : BitVec 7).toNat)) ∧
    (let s := operand 2 0 [0xFF];
      s.outcnt + (129 - (127 : BitVec 7).toNat) ≤ s.latch.target.toNat ∧ s.cursor = s.latch.len) :=
  ⟨by decide, ⟨by decide, by decide, by decide⟩, by decide, by decide, by decide⟩

/-- CopyMovesTargetBytes: exactly S.TARGET bytes, and one missing. -/
theorem test_meets_copy :
    Readable 2 (unit 0 2 [0xAA, 0x00]) ∧ (unit 0 2 [0xAA, 0x00]).latch.target.toNat = 2 ∧
    (let s := unit 0 2 [0xAA];
      1 < s.latch.target.toNat ∧ Readable 1 s ∧ s.cursor.toNat + 1 = s.latch.len.toNat ∧ s.state = .busy) :=
  ⟨⟨by decide, by decide⟩, by decide, by decide, ⟨by decide, by decide⟩, by decide, by decide⟩

/-- RunSequenceDecompresses: LIT, NOP and REP over `AA BB BB`, a NOP left behind them. -/
theorem test_meets_run_sequence :
    let rs := [Run.lit [0xAA], .nop, .rep 2 0xBB];
    let s := unit 1 3 [0x00, 0xAA, 0x80, 0xFF, 0xBB, 0x80];
    (∀ r ∈ rs, r.wf = true) ∧ rs.getLast? ≠ some .nop ∧ s.phase = .decompress ∧ s.latch.comp ≠ 0 ∧
      s.outcnt = 0 ∧ s.latch.target.toNat = (expandRuns rs).length ∧ PayloadIs (encodeRuns rs) s := by
  refine ⟨by decide, by decide, rfl, by decide, rfl, by decide, ⟨by decide, by decide⟩, ?_⟩
  intro k b h
  have hk : k < 5 := (List.getElem?_eq_some_iff.1 h).1
  revert b
  revert k
  decide

/-- StartOpensSession: the base configuration, and every check at its limit. -/
theorem test_meets_start :
    (validate (idle cfg).params (Latch.mk 8 1 1 0 0 0 0 2 2 2 1 2) = none ∧ (idle cfg).state ≠ .busy) ∧
    (let s := idle { cfg with planes := 8, compression := 1, masking := 2, width := 65535, palCount := 256,
                              payloadBase := 1, payloadLen := 1 };
      s.state ≠ .busy ∧ 1 ≤ s.cfg.planes.toNat ∧ s.cfg.planes.toNat ≤ 8 ∧ s.cfg.compression.toNat ≤ 1 ∧
        s.cfg.masking.toNat ≤ 2 ∧ s.cfg.width.toNat ≤ s.params.maxWidth.toNat ∧
        2 ^ s.cfg.planes.toNat ≤ s.cfg.palCount.toNat ∧
        s.cfg.payloadBase.toNat + s.cfg.payloadLen.toNat ≤ s.params.inLen.toNat) := by decide

/-- StartChecksInOrder: checks 1 (both ends), 2, 3, 4, 5, 6, 7, each with the earlier ones passed. -/
theorem test_meets_start_checks :
    (let s := idle { cfg with planes := 0 }; s.state ≠ .busy ∧ s.cfg.planes.toNat < 1) ∧
    8 < (idle { cfg with planes := 9 }).cfg.planes.toNat ∧
    (let s := idle { cfg with compression := 2 };
      1 ≤ s.cfg.planes.toNat ∧ s.cfg.planes.toNat ≤ 8 ∧ 1 < s.cfg.compression.toNat) ∧
    (let s := idle { cfg with masking := 3 }; s.cfg.compression.toNat ≤ 1 ∧ s.cfg.masking = 3) ∧
    (let s := idle { cfg with masking := 4 }; s.cfg.compression.toNat ≤ 1 ∧ 3 < s.cfg.masking.toNat) ∧
    (let s := { idle { cfg with width := 321 } with
                  params := { State.reset.params with maxWidth := 320 } };
      s.cfg.masking.toNat ≤ 2 ∧ s.params.maxWidth.toNat < s.cfg.width.toNat) ∧
    (let s := idle { cfg with planes := 8, palCount := 255 };
      s.cfg.width.toNat ≤ s.params.maxWidth.toNat ∧ s.cfg.palCount.toNat < 2 ^ s.cfg.planes.toNat) ∧
    (let s := idle { cfg with payloadBase := 1 };
      2 ^ s.cfg.planes.toNat ≤ s.cfg.palCount.toNat ∧
        s.params.inLen.toNat < s.cfg.payloadBase.toNat + s.cfg.payloadLen.toNat) := by decide

/-- DroppedCommandsChangeNothing, StepAcceptedInReady, StepInDoneGivesNoRow, StepInIdleRaisesOrdering. -/
theorem test_meets_commands :
    (row .decompress 0).state = .busy ∧ (between .error).state = .error ∧ (between .ready).state = .ready ∧
      (between .done 1).state = .done ∧ State.reset.state = .idle := by decide

/-- AbortClosesSession: idle, a session between rows, and BUSY with CURSOR's whole range open. -/
theorem test_meets_abort :
    State.reset.state = .idle ∧ (between .ready).state ≠ .idle ∧ (between .ready).state ≠ .busy ∧
      (row .decompress 0).state = .busy ∧ (row .decompress 0).stepCursor ≤ (row .decompress 0).latch.len := by
  decide

/-- StepRunsControlInstruction, and NopByteMovesOnlyCursor: the control byte is the payload's last. -/
theorem test_meets_control_step :
    let s := unit 1 2 [0x80];
    s.phase = .decompress ∧ s.outcnt < s.latch.target.toNat ∧ s.latch.comp ≠ 0 ∧ Readable 1 s ∧
      Cells.get s.touched (payloadAddr s) = 0 ∧ Cells.get (w := 8) s.inp (payloadAddr s) = 0x80 :=
  ⟨rfl, by decide, by decide, ⟨by decide, by decide⟩, by decide, by decide⟩

/-- StepRunsCopy. -/
theorem test_meets_copy_step :
    let s := unit 0 1 [0xAA];
    s.phase = .decompress ∧ s.outcnt < s.latch.target.toNat ∧ s.latch.comp = 0 := by decide

/-- MissingControlByteRaisesOverrun, CompleteRowReadsNoMore. -/
theorem test_meets_row_end :
    (let s := unit 1 2 [];
      s.phase = .decompress ∧ s.outcnt < s.latch.target.toNat ∧ s.latch.comp ≠ 0 ∧ s.latch.len ≤ s.cursor) ∧
    (let s := row .decompress;
      s.phase = .decompress ∧ s.latch.target.toNat ≤ s.outcnt) := by decide

/-- StepRunsCommand: a command, and a CTRL write that is none. -/
theorem test_meets_ctrl_write :
    let s := fun v => given (.write (regAddr State.reset.params .ctrl) .bits32 v) State.reset;
    Writes .ctrl 4 [] (s 4) ∧ decodeCommand 4 = some .abort ∧ Writes .ctrl 8 [] (s 8) ∧ decodeCommand 8 = none :=
  ⟨⟨by decide, by decide, rfl⟩, by decide, ⟨by decide, by decide, rfl⟩, by decide⟩

/-- DeinterleaveOrsPlaneBits and RawIndexBounded: 8 planes, with and without a mask plane, and a plane
bit at column S.WIDTH − 1. -/
theorem test_meets_deinterleave :
    let s := deinterleaving 8 9 8 .eight (List.replicate 18 0x01);
    let t := deinterleaving 8 8 8 .nine (List.replicate 16 0x01);
    s.phase = .deinterleave ∧ LatchDerived s.latch ∧ s.latch.mask = 1 ∧
      (∀ x, x < s.latch.width.toNat → Cells.get s.acc x = 0) ∧ s.params.accWidth = .eight ∧
      t.phase = .deinterleave ∧ LatchDerived t.latch ∧ t.latch.mask ≠ 1 ∧
      (∀ x, x < t.latch.width.toNat → Cells.get t.acc x = 0) ∧
      nextHas (step s) (fun _ => true) = true ∧ nextHas (step t) (fun _ => true) = true := by
  refine ⟨rfl, ⟨by decide, by decide, by decide⟩, by decide, fun _ _ => rfl, rfl, rfl,
    ⟨by decide, by decide, by decide⟩, by decide, fun _ _ => rfl, rfl, rfl⟩

/-- PaddingBitsDoNotMatter: the SCRs of 95 D2 and D3. -/
theorem test_meets_padding :
    let s := deinterleaving 1 1 3 .nine [0xBF, 0xFF];
    let other : Memory := [(0, 0xA0)];
    s.phase = .deinterleave ∧ nextHas (step s) (fun _ => true) = true ∧
      nextHas (step { s with scr := other }) (fun _ => true) = true ∧
      ∀ p, p < s.latch.eff.toNat → ∀ x, x < s.latch.width.toNat →
        (Cells.get (w := 8) other (p * s.latch.stride.toNat + x / 8)).getLsbD (7 - x % 8) =
          (Cells.get (w := 8) s.scr (p * s.latch.stride.toNat + x / 8)).getLsbD (7 - x % 8) :=
  ⟨rfl, rfl, rfl, by decide⟩

/-- EightBitAccumulatorLosesMaskPlane: 9 planes in all, and 8. -/
theorem test_meets_two_widths :
    let s := deinterleaving 8 9 8 .nine (List.replicate 18 0x80);
    s.phase = .deinterleave ∧ (∀ x, x < s.latch.width.toNat → Cells.get s.acc x = 0) ∧
      nextHas (step { s with params := { s.params with accWidth := .eight } }) (fun _ => true) = true ∧
      nextHas (step { s with params := { s.params with accWidth := .nine } }) (fun _ => true) = true ∧
      (deinterleaving 7 8 8 .nine (List.replicate 16 0x80)).latch.eff.toNat ≤ 8 :=
  ⟨rfl, fun _ _ => rfl, rfl, rfl, by decide⟩

/-- Every pixel of a resolving state with one column has a written palette entry. -/
theorem resolving_loaded (mask planes : Byte) (tcolor : Half) (raw : AccCell)
    (h : ∀ i, resolveIndex (resolving mask planes tcolor raw).latch raw = some i →
      Cells.get (resolving mask planes tcolor raw).palWritten i.toNat = 1) :
    ∀ x i, x < (resolving mask planes tcolor raw).latch.width.toNat →
      resolveIndex (resolving mask planes tcolor raw).latch
        (Cells.get (resolving mask planes tcolor raw).acc x) = some i →
      Cells.get (resolving mask planes tcolor raw).palWritten i.toNat = 1 := by
  intro x i hx hi
  have hx0 : x = 0 := by
    have : x < 1 := hx
    omega
  subst hx0
  apply h
  have : Cells.get (resolving mask planes tcolor raw).acc 0 = raw := Cells.get_set_same [] 0 raw
  rwa [this] at hi

/-- ResolveWritesPixels: each scheme, opaque and transparent (95 X1, X3, X4, X10, X12). -/
theorem test_meets_resolve :
    (∀ x i, x < (resolving 0 1 0 0).latch.width.toNat →
      resolveIndex (resolving 0 1 0 0).latch (Cells.get (resolving 0 1 0 0).acc x) = some i →
      Cells.get (resolving 0 1 0 0).palWritten i.toNat = 1) ∧
    (∀ x i, x < (resolving 1 1 0 2).latch.width.toNat →
      resolveIndex (resolving 1 1 0 2).latch (Cells.get (resolving 1 1 0 2).acc x) = some i →
      Cells.get (resolving 1 1 0 2).palWritten i.toNat = 1) ∧
    (∀ x i, x < (resolving 1 1 0 3).latch.width.toNat →
      resolveIndex (resolving 1 1 0 3).latch (Cells.get (resolving 1 1 0 3).acc x) = some i →
      Cells.get (resolving 1 1 0 3).palWritten i.toNat = 1) ∧
    (∀ x i, x < (resolving 2 3 5 5).latch.width.toNat →
      resolveIndex (resolving 2 3 5 5).latch (Cells.get (resolving 2 3 5 5).acc x) = some i →
      Cells.get (resolving 2 3 5 5).palWritten i.toNat = 1) ∧
    (∀ x i, x < (resolving 2 3 0 1).latch.width.toNat →
      resolveIndex (resolving 2 3 0 1).latch (Cells.get (resolving 2 3 0 1).acc x) = some i →
      Cells.get (resolving 2 3 0 1).palWritten i.toNat = 1) ∧
    (resolving 0 1 0 0).phase = .resolve ∧ (resolving 0 1 0 0).latch.mask = 0 ∧
    (resolving 1 1 0 2).latch.mask = 1 ∧ (Cells.get (resolving 1 1 0 2).acc 0).toNat = 2 ^ 1 ∧
    (Cells.get (resolving 1 1 0 3).acc 0).toNat ≠ 2 ^ 1 ∧ (resolving 2 3 5 5).latch.mask = 2 ∧
    (Cells.get (resolving 2 3 5 5).acc 0).toNat = (resolving 2 3 5 5).latch.tcolor.toNat ∧
    (Cells.get (resolving 2 3 0 1).acc 0).toNat ≠ (resolving 2 3 0 1).latch.tcolor.toNat := by
  refine ⟨resolving_loaded _ _ _ _ ?_, resolving_loaded _ _ _ _ ?_, resolving_loaded _ _ _ _ ?_,
    resolving_loaded _ _ _ _ ?_, resolving_loaded _ _ _ _ ?_, by decide⟩ <;> decide

/-- The control invariant holds in a row step of the small session. -/
theorem row_controlled : Controlled (row .deinterleave) ∧ Controlled (row .decompress 0) ∧
    Controlled (row .enabled 0) ∧ Controlled (row .handoff) ∧ Controlled (between .error) ∧
    Controlled (between .ready) ∧ Controlled (between .done 1) := by
  have derived : LatchDerived latch := ⟨by decide, by decide, by decide⟩
  refine ⟨?_, ?_, ?_, ?_, ?_, ?_, ?_⟩
  all_goals
    exact ⟨by decide, by decide, by decide, by decide, by decide, by decide, derived,
      by first | trivial | exact Nat.le.refl | exact Nat.zero_le _, by decide, fun _ h => (nomatch h), fun _ => rfl⟩

/-- The accumulator is clear and the palette loaded in it. -/
theorem row_clear (p : Phase) (n : Nat) : AccClear (row p n) ∧ PaletteLoaded (row p n) := by
  refine ⟨⟨fun _ _ _ => rfl, fun _ _ _ => rfl⟩, ?_⟩
  intro i hi
  have : i < 2 := hi
  have key : ∀ i, i < 2 → Cells.get loaded.palWritten i = 1 := by decide
  exact key i this

/-- PaletteReadsInRange: a pixel of the row reads the last entry in range, PAL[1] (95 X2); the palette is
loaded. -/
theorem test_meets_palette_range :
    let s := row .deinterleave;
    Controlled s ∧ AccClear s ∧ s.phase = .deinterleave ∧ 0 < s.latch.width.toNat ∧
      nextHas (step s) (fun t => resolveIndex t.latch (Cells.get t.acc 0) == some 1) = true ∧ PaletteLoaded s :=
  ⟨row_controlled.1, (row_clear _ _).1, rfl, by decide, by decide, (row_clear _ _).2⟩

/-- UnwrittenPaletteEntryFaults: PAL[2] was not written. -/
theorem test_meets_unwritten :
    let s := resolving 0 2 0 2;
    s.phase = .resolve ∧ 0 < s.latch.width.toNat ∧
      resolveIndex s.latch (Cells.get s.acc 0) = some 2 ∧ Cells.get s.palWritten (2 : AccCell).toNat = 0 := by
  decide

/-- A STEP accepted while the sink stalls, over a payload that gives a row. -/
def stalled : State := { row .enabled 0 with sinkReady := false }

/-- The same over a payload one byte short, so that the row step ends in OVERRUN. -/
def stalledShort : State := { stalled with latch := { latch with len := 1 } }

/-- HandoffEmitsRow; StalledSinkHoldsBusy with nothing pending, where no run reaches: a stalled handoff. -/
theorem test_meets_handoff :
    (row .handoff).phase = .handoff ∧ (row .handoff).sinkReady = true ∧
      (let s := { row .handoff with sinkReady := false };
        s.phase = .handoff ∧ s.sinkReady = false ∧ s.state = .busy ∧ s.inputs = [] ∧
          nextHas (step s) (fun t => t.phase == .handoff) = true) := by decide

/-- StalledSinkHoldsBusy with nothing pending and a row to give: it waits, no byte read (R62, R197). -/
theorem test_meets_stall :
    stalled.phase = .enabled ∧ stalled.sinkReady = false ∧ stalled.state = .busy ∧ stalled.inputs = [] ∧
      nextHas (steps 2 (beginRow stalled)) (fun t => t.phase == .deinterleave) = true ∧
      nextHas (step stalled) (fun t => t == stalled) = true := by decide

/-- StalledSinkHoldsBusy where the row step ends in an error: no step of it fills the row, and it begins. -/
theorem test_meets_stall_error :
    stalledShort.phase = .enabled ∧ stalledShort.sinkReady = false ∧ stalledShort.state = .busy ∧
      stalledShort.inputs = [] ∧ nextHas (step stalledShort) (fun t => t.phase == .decompress) = true ∧
      nextHas (steps 1 (beginRow stalledShort)) (fun t => t.state == .error && record t == (0x109, 1, 2, 1)) =
        true ∧
      ∀ k t, steps k (beginRow stalledShort) = .next t → t.phase ≠ .deinterleave := by
  refine ⟨rfl, rfl, rfl, rfl, by decide, by decide, fun k t h => ?_⟩
  cases k with
  | zero => injection h with h; subst h; decide
  | succ k =>
    obtain ⟨e, he, hs, hp⟩ : ∃ e, step (beginRow stalledShort) = .next e ∧ step e = .next e ∧ e.phase = .idle :=
      ⟨_, rfl, rfl, rfl⟩
    have stays : ∀ k, steps k e = .next e := by
      intro k
      induction k with
      | zero => rfl
      | succ k ih => rw [steps, hs]; exact ih
    rw [steps, he] at h
    have : e = t := by simpa [stays k] using h
    rw [← this, hp]
    decide

/-- RowStepCompletes. -/
theorem test_meets_row_step :
    let s := row .enabled 0;
    Controlled s ∧ AccClear s ∧ PaletteLoaded s ∧ s.phase = .enabled ∧ s.sinkReady = true ∧ s.inputs = [] :=
  ⟨row_controlled.2.2.1, (row_clear _ _).1, (row_clear _ _).2, rfl, rfl, rfl⟩

/-- A read of r is the next input. -/
def reading (r : Reg) (s : State) : State := given (.read (regAddr s.params r) .bits32) s

/-- A write of v to r is the next input. -/
def writing (r : Reg) (v : Word) (s : State) : State := given (.write (regAddr s.params r) .bits32 v) s

/-- The value 4 written to CTRL is an ABORT; WIDTH's address is another (R25, R26, R85). -/
theorem test_takes_command :
    (rowStepRuns stalled = false ∧
      (writing .ctrl 4 stalled).inputs.head? = some (.write (regAddr stalled.params .ctrl) .bits32 4) ∧
      decodeCommand 4 = some .abort) ∧
    regAddr stalled.params .width ≠ regAddr stalled.params .ctrl := by decide

/-- StalledSinkHoldsBusy: a write of 4 to WIDTH leaves it BUSY; an ABORT and a reset release it. -/
theorem test_meets_stall_released :
    nextHas (step (writing .width 4 stalled)) (fun t => t.state == .busy && t.cfg.width == 4) = true ∧
    TakesCommand .abort (writing .ctrl 4 stalled) ∧
    nextHas (step (writing .ctrl 4 stalled)) (fun t => t.state == .idle && t.out.isEmpty) = true ∧
    TakesReset (given .reset stalled) ∧
    nextHas (step (given .reset stalled)) (fun t => t.state == .idle && t.out.isEmpty) = true :=
  ⟨by decide, ⟨by decide, 4, by decide, by decide⟩, by decide, ⟨by decide, by decide⟩, by decide⟩

/-- HostFillStoresBytes while a row waits for the sink: the byte is marked before the row reads it (R76,
R256); the row still waits. -/
theorem test_meets_fill_in_stall :
    rowStepRuns (given (.fill 1 [0x55]) stalled) = false ∧
    nextHas (step (given (.fill 1 [0x55]) stalled))
      (fun t => t.phase == .enabled && t.cursor == 0 && t.state == .busy && t.touched == [(1, 1)]) = true := by
  decide

/-- PayloadReadsStayInside: a decompression that moves CURSOR, and a START that sets it to 0. -/
theorem test_meets_cursor :
    nextHas (step (row .decompress 0)) (fun t => t.cursor == 2) = true ∧
    (let s := writing .ctrl 1 { between .ready with cursor := 2 };
      TakesCommand .start s ∧ nextHas (step s) (fun t => t.cursor == 0) = true) :=
  ⟨by decide, ⟨by decide, 1, by decide, by decide⟩, by decide⟩

/-- LatchesFixedInSession: a write of 1 to WIDTH in READY leaves the latches, a START loads them, a reset
clears them. -/
theorem test_meets_latches :
    nextHas (step (writing .width 1 (between .ready))) (fun t => t.latch == latch && t.cfg.width == 1) = true ∧
    ((between .ready).state ≠ .busy ∧ TakesCommand .start (writing .ctrl 1 (between .ready))) ∧
    nextHas (step (writing .ctrl 1 (between .ready))) (fun t => t.latch.width == 0) = true ∧
    TakesReset (given .reset (between .ready)) ∧
    nextHas (step (given .reset (between .ready))) (fun t => t.latch.width == 0) = true :=
  ⟨by decide, ⟨by decide, by decide, 1, by decide, by decide⟩, by decide, ⟨by decide, by decide⟩, by decide⟩

/-- ReadsReturnRegisters: every register can be read, in IDLE and in each other state. -/
theorem test_meets_reads (r : Reg) :
    Reads r [] (reading r (idle cfg)) ∧ (idle cfg).state = .idle ∧ (idle cfg).state ≠ .busy ∧
      Reads .status [] (reading .status (between .ready)) ∧ Reads .status [] (reading .status (between .done 1)) ∧
      Reads .status [] (reading .status (between .error)) ∧
      Reads (.palette 1) [] (reading (.palette 1) (between .ready)) ∧
      Cells.get (between .ready).palWritten (1 : BitVec 8).toNat = 1 := by
  exact ⟨⟨rfl, rfl, rfl⟩, rfl, by decide, ⟨rfl, rfl, rfl⟩, ⟨rfl, rfl, rfl⟩, ⟨rfl, rfl, rfl⟩, ⟨rfl, rfl, rfl⟩, rfl⟩

/-- BusyReadsAreUnspecified: the STEP was accepted, its row step not begun. -/
theorem test_meets_busy_reads :
    (row .enabled 0).state = .busy ∧ Reads .row [] (reading .row (row .enabled 0)) ∧
      Reads .cursor [] (reading .cursor (row .enabled 0)) ∧ Reads .status [] (reading .status (row .enabled 0)) :=
  ⟨rfl, ⟨by decide, by decide, rfl⟩, ⟨by decide, by decide, rfl⟩, ⟨by decide, by decide, rfl⟩⟩

/-- ConfigurationWritesStore, PaletteWritesStoreOrDrop, ReadOnlyWritesIgnored: every register can be
written, in each state. -/
theorem test_meets_writes (r : Reg) :
    Writes r 0xFFFFFFFF [] (writing r 0xFFFFFFFF (between .done 1)) ∧
      Writes r 0xFFFFFFFF [] (writing r 0xFFFFFFFF (between .ready)) ∧
      Writes r 0xFFFFFFFF [] (writing r 0xFFFFFFFF (row .enabled 0)) ∧
      (between .done 1).state ≠ .ready ∧ (between .done 1).state ≠ .busy ∧ (between .ready).state = .ready ∧
      (row .enabled 0).state = .busy ∧ Reg.target ∈ [Reg.status, .target] :=
  ⟨⟨rfl, rfl, rfl⟩, ⟨rfl, rfl, rfl⟩, ⟨rfl, rfl, rfl⟩, by decide⟩

/-- UnmappedOffsetsAreInert: the unmapped offset just below the palette. -/
theorem test_meets_unmapped :
    0x3FC < 2048 ∧ 0x3FC % 4 = 0 ∧ (∀ r : Reg, r.offset ≠ 0x3FC) ∧
    (let s := fun i => given i State.reset;
      rowStepRuns (s .pause) = false ∧ (s .pause).params.wf = true ∧
        (s (.read 0x3FC .bits32)).inputs = .read (State.reset.params.regBase + BitVec.ofNat 32 0x3FC) .bits32 :: [] ∧
        (s (.write 0x3FC .bits32 7)).inputs =
          .write (State.reset.params.regBase + BitVec.ofNat 32 0x3FC) .bits32 7 :: []) := by
  refine ⟨by decide, by decide, ?_, by decide⟩
  intro r
  cases r with
  | palette i => simp only [Reg.offset]; omega
  | _ => decide

/-- OddAccessesRefused: a narrow access, and a misaligned one at the window's end. -/
theorem test_meets_odd_access :
    let s := given (.read (State.reset.params.regBase + BitVec.ofNat 32 2047) .bits32) State.reset;
    2047 < 2048 ∧ rowStepRuns s = false ∧ s.params.wf = true ∧
      (AccessWidth.bits16 ≠ .bits32 ∨ 0 % 4 ≠ 0) ∧ (AccessWidth.bits32 ≠ .bits32 ∨ 2047 % 4 ≠ 0) ∧
      s.inputs = .read (s.params.regBase + BitVec.ofNat 32 2047) .bits32 :: [] := by decide

/-- HostFillStoresBytes: up to IN_LEN inside the window of an open session, and one byte past it. -/
theorem test_meets_fill :
    let s := given (.fill 1 [0x55]) { between .ready with params := { State.reset.params with inLen := 2 } };
    rowStepRuns s = false ∧ s.inputs = .fill 1 [0x55] :: [] ∧ 1 + [(0x55 : Byte)].length ≤ s.params.inLen.toNat ∧
      s.state = .ready ∧ s.latch.base.toNat ≤ 1 + 0 ∧ 1 + 0 < s.latch.base.toNat + s.latch.len.toNat ∧
      s.params.inLen.toNat < 2 + [(0x55 : Byte)].length := by decide

/-- PayloadReadsStayInside. -/
theorem test_meets_inside : Controlled (row .decompress 0) ∧ (row .decompress 0).phase = .decompress :=
  ⟨row_controlled.2.1, rfl⟩

/-- ResetClearsTheBlock: in BUSY, before the row step begins. -/
theorem test_meets_reset :
    rowStepRuns (given .reset (row .enabled 0)) = false ∧ (given .reset (row .enabled 0)).inputs = .reset :: [] := by
  decide

/-- BlockNeverWritesIn, CanonicalFormKept, ControlInvariantKept, AccumulatorClearKept, RowsInOrderKept,
LatchesFixedInSession, RowsLeaveOnlyWhole: the handoff of a row meets them all and steps. -/
theorem test_meets_invariants :
    let s := row .handoff;
    Canonical s ∧ Controlled s ∧ AccClear s ∧ RowsInOrder s ∧ nextHas (step s) (fun t => t.out.length == 1) = true :=
  ⟨by unfold Canonical; decide, row_controlled.2.2.2.1, (row_clear _ _).1,
    ⟨by decide, fun _ _ h => absurd h (Nat.not_lt_zero _)⟩, by decide⟩

/-- PaletteFixedInSession: a palette write in READY, which is dropped (95 T10), and a reset. -/
theorem test_meets_palette_fixed :
    (writing (.palette 0) 0x123456 (between .ready)).state = .ready ∧
      nextHas (step (writing (.palette 0) 0x123456 (between .ready))) (fun t => t.pal == [(1, 0x112233)]) = true ∧
      TakesReset (given .reset (between .ready)) ∧
      nextHas (step (given .reset (between .ready))) (fun t => t.palWritten.isEmpty) = true :=
  ⟨by decide, by decide, ⟨by decide, by decide⟩, by decide⟩

/-- ERROR with a record, and a configuration a new START accepts. -/
def failed : State :=
  { between .error with cfg := cfg, err := { code := 0x109, offset := 3, expected := 2, found := 0 } }

/-- ErrorIsSticky's control hypothesis, whatever input is pending. -/
theorem failed_controlled (i : Input) : Controlled (given i failed) :=
  have h := row_controlled.2.2.2.2.1
  ⟨h.busyPhase, h.cursorBound, h.rowOwed, h.rowsDone, h.validAfterRow, h.checked, h.derived, h.outcntBound,
    h.stepBound, fun hp => (nomatch hp), h.sinkHeld⟩

/-- ErrorIsSticky where ERROR stays: a STEP (95 T2), and a write of 1 to WIDTH. -/
theorem test_meets_sticky :
    failed.state = .error ∧
    nextHas (step (writing .ctrl 2 failed)) (fun t => t.state == .error && t.err == failed.err) = true ∧
    nextHas (step (writing .width 1 failed)) (fun t => t.state == .error && t.err == failed.err) = true := by
  decide

/-- ErrorIsSticky where it is left: a START that clears the record, an ABORT that keeps it (95 T3), a reset. -/
theorem test_meets_sticky_left :
    TakesCommand .start (writing .ctrl 1 failed) ∧
    nextHas (step (writing .ctrl 1 failed)) (fun t => t.state == .ready && t.err.code == 0) = true ∧
    TakesCommand .abort (writing .ctrl 4 failed) ∧
    nextHas (step (writing .ctrl 4 failed)) (fun t => t.state == .idle && t.err == failed.err) = true ∧
    TakesReset (given .reset failed) ∧
    nextHas (step (given .reset failed)) (fun t => t.state == .idle && t.err.code == 0) = true :=
  ⟨⟨by decide, 1, by decide, by decide⟩, by decide, ⟨by decide, 4, by decide, by decide⟩, by decide,
    ⟨by decide, by decide⟩, by decide⟩

end Sys2Proof.Tests
end

section
/-! SUPPORT. The register window: each register is found at its own offset and at no other (10_state.md R25,
R44, R45). -/

namespace Sys2Proof

theorem Reg.offset_palette (i : BitVec 8) : (Reg.palette i).offset = 0x400 + 4 * i.toNat := rfl

theorem decodeReg_palette (i : BitVec 8) : decodeReg (0x400 + 4 * i.toNat) = some (.palette i) := by
  have hi := i.isLt
  have hword : (0x400 + 4 * i.toNat - 0x400) / 4 = i.toNat := by omega
  unfold decodeReg
  rw [if_pos (by omega), if_pos (by omega), hword, BitVec.ofNat_toNat, BitVec.setWidth_eq]

theorem decodeReg_offset (r : Reg) : decodeReg r.offset = some r := by
  cases r with
  | palette i => exact decodeReg_palette i
  | _ => rfl

/-- What the window finds at an offset has that offset (R25). -/
theorem offset_of_decodeReg {off : Nat} {r : Reg} (h : decodeReg off = some r) : r.offset = off := by
  unfold decodeReg at h
  split at h
  · next hlow =>
    split at h
    · next hin =>
      injection h with h
      subst h
      simp only [Reg.offset_palette, BitVec.toNat_ofNat]
      omega
    · cases h
  · exact beq_iff_eq.1 (List.find?_some h :)

theorem decodeReg_eq_some_iff (off : Nat) (r : Reg) : decodeReg off = some r ↔ r.offset = off :=
  ⟨offset_of_decodeReg, fun h => h ▸ decodeReg_offset r⟩

theorem decodeReg_eq_none {off : Nat} (h : ∀ r : Reg, r.offset ≠ off) : decodeReg off = none :=
  Option.eq_none_iff_forall_ne_some.2 fun r hr => h r (offset_of_decodeReg hr)

theorem Reg.offset_lt (r : Reg) : r.offset < 2048 := by
  cases r with
  | palette i => have := i.isLt; rw [Reg.offset_palette]; omega
  | _ => decide

theorem Reg.offset_aligned (r : Reg) : r.offset % 4 = 0 := by
  cases r with
  | palette i => rw [Reg.offset_palette]; omega
  | _ => rfl

end Sys2Proof
end

section
/-! SUPPORT. The host's side of the window: the step with a pending access is that access (10_state.md R45, R55,
20_memory.md R67). -/

namespace Sys2Proof.Machine

/-! ### The pending access -/

/-- An aligned 32-bit access inside the window: REG_BASE is 2 KiB aligned, so the address does not wrap
around (R7, R67). -/
theorem windowOffset_regBase_add {p : Params} {off : Nat} (hp : p.wf = true) (hlt : off < 2048)
    (h4 : off % 4 = 0) : windowOffset p (p.regBase + BitVec.ofNat 32 off) .bits32 = .ok off := by
  have hbase : p.regBase.toNat % 2048 = 0 := by
    simp only [Params.wf, Bool.and_eq_true, beq_iff_eq] at hp
    exact hp.2
  have haddr : (p.regBase + BitVec.ofNat 32 off).toNat = p.regBase.toNat + off := by
    have := p.regBase.isLt
    simp only [BitVec.toNat_add, BitVec.toNat_ofNat]
    omega
  have hoff : p.regBase.toNat + off - p.regBase.toNat = off := by omega
  unfold windowOffset
  rw [haddr, hoff, if_neg (by omega), if_neg (by simp [h4])]

/-- On the outside's turn a step is one of its inputs. -/
theorem step_of_rowStepRuns_false {s : State} (h : rowStepRuns s = false) : step s = inputStep s := by
  unfold step machineStep
  cases hp : s.phase with
  | idle => rfl
  | enabled => rfl
  | handoff =>
    have hs : s.sinkReady = false := by simpa [rowStepRuns, hp] using h
    simp [hs]
  | _ => simp [rowStepRuns, hp] at h

/-- A pending input that does not wait for the block is the next step. -/
theorem step_of_input {s : State} {i : Input} {rest : List Input} (hr : rowStepRuns s = false)
    (hin : s.inputs = i :: rest) (hw : letsBlockMove i s = false) :
    step s = takeInput i { s with inputs := rest } := by
  have hpop : popInput s = { s with inputs := rest } := by rw [popInput, hin]; rfl
  rw [step_of_rowStepRuns_false hr, inputStep, hin]
  simp [hw, hpop]

/-- A pending read inside the window is taken at its offset. -/
theorem step_of_read {s : State} {off : Nat} {rest : List Input} (hr : rowStepRuns s = false)
    (hp : s.params.wf = true) (hlt : off < 2048) (h4 : off % 4 = 0)
    (hin : s.inputs = .read (s.params.regBase + BitVec.ofNat 32 off) .bits32 :: rest) :
    step s = readAt off { s with inputs := rest } := by
  rw [step_of_input hr hin rfl]
  simp only [takeInput, windowOffset_regBase_add hp hlt h4]

/-- A pending write inside the window is taken at its offset. -/
theorem step_of_write {s : State} {off : Nat} {v : Word} {rest : List Input} (hr : rowStepRuns s = false)
    (hp : s.params.wf = true) (hlt : off < 2048) (h4 : off % 4 = 0)
    (hin : s.inputs = .write (s.params.regBase + BitVec.ofNat 32 off) .bits32 v :: rest) :
    step s = writeAt off v { s with inputs := rest } := by
  rw [step_of_input hr hin rfl]
  simp only [takeInput, windowOffset_regBase_add hp hlt h4]

/-- A pending read of a register reads it. -/
theorem Reads.step_eq {r : Reg} {s : State} {rest : List Input} (h : Reads r rest s) :
    step s = readAt r.offset { s with inputs := rest } :=
  step_of_read h.1 h.2.1 r.offset_lt r.offset_aligned h.2.2

/-- A pending write to a register reaches it. -/
theorem Writes.step_eq {r : Reg} {v : Word} {s : State} {rest : List Input} (h : Writes r v rest s) :
    step s = writeAt r.offset v { s with inputs := rest } :=
  step_of_write h.1 h.2.1 r.offset_lt r.offset_aligned h.2.2

/-! ### What a read answers, what a write stores -/

theorem readAt_unmapped {off : Nat} (h : ∀ r : Reg, r.offset ≠ off) (s : State) :
    readAt off s = .next (deliver 0 s) := by
  simp only [readAt, decodeReg_eq_none h]

theorem writeAt_unmapped {off : Nat} (h : ∀ r : Reg, r.offset ≠ off) (v : Word) (s : State) :
    writeAt off v s = .next s := by
  simp only [writeAt, decodeReg_eq_none h]

theorem readAt_offset {r : Reg} {s t : State} {v : Word} (h : readReg r s = .ok v t) :
    readAt r.offset s = .next (deliver v t) := by
  simp only [readAt, decodeReg_offset, h]

/-- A pending read of a register delivers its value. -/
theorem Reads.delivers {r : Reg} {s t : State} {v : Word} {rest : List Input} (h : Reads r rest s)
    (hr : readReg r { s with inputs := rest } = .ok v t) : step s = .next (deliver v t) :=
  h.step_eq.trans (readAt_offset hr)

/-- A write to a register other than CTRL stores. -/
theorem writeAt_offset {r : Reg} (hr : r ≠ .ctrl) (v : Word) (s : State) :
    writeAt r.offset v s = .next (writeReg r v s) := by
  unfold writeAt
  rw [decodeReg_offset]
  cases r with
  | ctrl => exact absurd rfl hr
  | _ => rfl

theorem writeReg_palette_of_open {s : State} (h : sessionOpen s = false) (i : BitVec 8) (v : Word) :
    writeReg (.palette i) v s =
      { s with pal := Cells.set s.pal i.toNat (v.setWidth 24)
               palWritten := Cells.set s.palWritten i.toNat 1 } := by
  simp [writeReg, paletteOpen, h]

theorem writeReg_palette_of_session {s : State} (h : sessionOpen s = true) (i : BitVec 8) (v : Word) :
    writeReg (.palette i) v s = s := by
  simp [writeReg, paletteOpen, h]

/-- The host must leave the payload and the palette alone in READY and BUSY only (R76, R189). -/
theorem sessionOpen_iff (s : State) : sessionOpen s = true ↔ s.state = .ready ∨ s.state = .busy := by
  simp [sessionOpen]

theorem readReg_row_busy {s : State} (hb : s.state = .busy) :
    readReg .row s = .ok ((Config.freeRow s.draws).setWidth 32) (drawn s) := if_pos hb

theorem readReg_cursor_busy {s : State} (hb : s.state = .busy) :
    readReg .cursor s = .ok (Config.freeCursor s.draws) (drawn s) := if_pos hb

theorem readReg_status_busy {s : State} (hb : s.state = .busy) :
    readReg .status s = .ok (statusWord .busy (Config.freeRowValid s.draws)) (drawn s) :=
  (if_pos hb).trans (by rw [hb])

/-- In BUSY the word of STATUS shows STATE 2, and ROW_VALID in bit 3 (R24, R27). -/
theorem statusWord_busy (rowValid : Bool) : statusWord .busy rowValid = 2 ∨ statusWord .busy rowValid = 10 := by
  cases rowValid with
  | false => exact .inl rfl
  | true => exact .inr rfl

end Sys2Proof.Machine
end

section
/-! SUPPORT. What every step keeps of the latches and of the rows handed out, read off the cases of a step
(10_state.md R47, R54), and the stop of the resolve (R53). -/

namespace Sys2Proof.Machine

/-! ### The latches and the rows handed out -/

/-- A decompression keeps the latches and hands out no row. -/
theorem decompressStep_keeps {s t : State} (h : decompressStep s = .next t) :
    t.latch = s.latch ∧ t.out = s.out := by
  rcases decompressStep_next h with ⟨-, rfl⟩ | ⟨-, hp, -⟩ | ⟨-, u, c, o, e, f, hp, rfl⟩
  · exact ⟨rfl, rfl⟩
  · rw [hp.frame]; exact ⟨rfl, rfl⟩
  · simp only [raiseError_latch, raiseError_out]
    rw [hp.frame]; exact ⟨rfl, rfl⟩

/-- A resolve keeps the latches and hands out no row. -/
theorem resolveColumns_keeps {s t : State}
    (h : resolveColumns (List.range s.latch.width.toNat) s = .ok () t) :
    t.latch = s.latch ∧ t.out = s.out := by
  obtain ⟨hf, -⟩ := resolveColumns_ok List.nodup_range h
  rw [hf]; exact ⟨rfl, rfl⟩

/-- START hands out no row. -/
theorem execStart_out {s t : State} (h : execStart s = .next t) : t.out = s.out := by
  rcases execStart_next h with ⟨-, rfl⟩ | ⟨-, -, rfl⟩ | ⟨-, r, -, rfl⟩ <;> rfl

/-- In BUSY a START is dropped (R187). -/
theorem execStart_busy {s t : State} (h : execStart s = .next t) (hb : s.state = .busy) : t = s := by
  rcases execStart_next h with ⟨-, ht⟩ | ⟨hn, -⟩ | ⟨hn, -⟩
  · exact ht
  · exact absurd hb hn
  · exact absurd hb hn

/-- STEP keeps the latches and hands out no row. -/
theorem execStep_keeps {s t : State} (h : execStep s = .next t) : t.latch = s.latch ∧ t.out = s.out := by
  rcases execStep_next h with ⟨-, rfl⟩ | ⟨-, rfl⟩ | ⟨-, rfl⟩ | ⟨-, rfl⟩ <;> exact ⟨rfl, rfl⟩

/-- ABORT keeps the latches and hands out no row. -/
theorem execAbort_keeps {s t : State} (h : execAbort s = .next t) : t.latch = s.latch ∧ t.out = s.out := by
  rcases execAbort_next h with ⟨-, rfl⟩ | ⟨-, rfl⟩ <;> exact ⟨rfl, rfl⟩

/-- No input hands out a row. -/
theorem takeInput_out {i : Input} {s t : State} (h : takeInput i s = .next t) : t.out = s.out := by
  rcases takeInput_next h with ⟨a, w, v, off, -, -, hw⟩ | ⟨-, ht⟩ | ⟨-, rfl⟩ | ⟨a, bs, -, -, rfl⟩ |
      ⟨b, -, rfl⟩ | ⟨-, rfl⟩
  · rcases writeAt_next hw with ht | ⟨-, i, c, ht⟩ | ⟨-, -, he⟩ | ⟨-, -, he⟩ | ⟨-, -, he⟩
    · rw [ht]
    · rw [ht]
    · exact execStart_out he
    · exact (execStep_keeps he).2
    · exact (execAbort_keeps he).2
  · rw [ht]
  · rfl
  · rw [pokeAll_frame]
  · rfl
  · rfl

/-- An input changes the latches only as a START outside BUSY or as a reset (R47). -/
theorem takeInput_latch {i : Input} {s t : State} (h : takeInput i s = .next t) :
    t.latch = s.latch ∨
    (s.state ≠ .busy ∧ ∃ a w v off, i = .write a w v ∧ windowOffset s.params a w = .ok off ∧
      decodeReg off = some .ctrl ∧ decodeCommand v = some .start) ∨
    i = .reset := by
  rcases takeInput_next h with ⟨a, w, v, off, rfl, ho, hw⟩ | ⟨-, ht⟩ | ⟨-, rfl⟩ | ⟨a, bs, -, -, rfl⟩ |
      ⟨b, -, rfl⟩ | ⟨hi, -⟩
  · rcases writeAt_next hw with ht | ⟨-, i, c, ht⟩ | ⟨hd, hc, he⟩ | ⟨-, -, he⟩ | ⟨-, -, he⟩
    · left; rw [ht]
    · left; rw [ht]
    · by_cases hb : s.state = .busy
      · left; rw [execStart_busy he hb]
      · exact .inr (.inl ⟨hb, a, w, v, off, rfl, ho, hd, hc⟩)
    · exact .inl (execStep_keeps he).1
    · exact .inl (execAbort_keeps he).1
  · left; rw [ht]
  · exact .inl rfl
  · left; rw [pokeAll_frame]
  · exact .inl rfl
  · exact .inr (.inr hi)

@[simp] theorem rowBytes_length (s : State) : (rowBytes s).length = 4 * s.latch.width.toNat := by
  simp [rowBytes]

/-! ### The stop of the resolve -/

/-- A column without a colour stops the resolve of the columns it is among (R53, M3). -/
theorem resolveColumns_faults {xs : List Nat} (hx : xs.Nodup) {s : State} {x : Nat} (hmem : x ∈ xs)
    (hnone : columnPixel s x = none) : resolveColumns xs s = .stop (.fault .paletteUnwritten) := by
  cases hr : resolveColumns xs s with
  | ok u t =>
    obtain ⟨-, -, hpx, -⟩ := resolveColumns_ok hx hr
    obtain ⟨px, hsome, -⟩ := hpx x hmem
    rw [hnone] at hsome
    cases hsome
  | stop o => rw [resolveColumns_stop hr]

/-- A pixel that looks up an unwritten palette entry has no colour. -/
theorem columnPixel_unwritten {s : State} {x : Nat} {i : AccCell}
    (hi : resolveIndex s.latch (Cells.get s.acc x) = some i) (hw : Cells.get s.palWritten i.toNat = 0) :
    columnPixel s x = none := by
  simp [columnPixel, palRead, hi, hw]

end Sys2Proof.Machine
end

section
/-! SUPPORT. The control invariant over each thing a step can do. It turns on the wait of log 25: a row
begins only with a sink that accepts, or when its decompression never fills it, and no input is taken between
its beginning and its handoff. -/

namespace Sys2Proof.Machine

/-! ### States between row steps -/

/-- With no row step in flight the invariant is about ROW, CURSOR and the latches alone (R24, R192). -/
theorem Controlled.of_rest {t : State} (hp : t.phase = .idle) (hb : t.state ≠ .busy)
    (hcursor : t.cursor ≤ t.latch.len) (hderived : LatchDerived t.latch)
    (howed : t.state = .ready → t.row < t.latch.height) (hdone : t.state = .done → t.row = t.latch.height)
    (hvalid : t.rowValid = true → t.state = .ready ∨ t.state = .done)
    (hchecked : inSession t = true → validate t.params t.latch = none) : Controlled t where
  busyPhase := by simp [hp, hb]
  cursorBound := hcursor
  rowOwed := by simpa [hb] using howed
  rowsDone := hdone
  validAfterRow := hvalid
  checked := hchecked
  derived := hderived
  outcntBound := by simp [OutcntBounded, hp]
  stepBound h := absurd h hb
  stalledFails := by simp [hp]
  sinkHeld := by simp [hp]

/-- Outside a session only CURSOR and the latches are bound. -/
theorem Controlled.of_closed {t : State} (hs : t.state = .idle ∨ t.state = .error) (hp : t.phase = .idle)
    (hv : t.rowValid = false) (hc : t.cursor ≤ t.latch.len) (hd : LatchDerived t.latch) : Controlled t := by
  refine .of_rest hp ?_ hc hd ?_ ?_ (by simp [hv]) ?_ <;> rcases hs with hs | hs <;> simp [inSession, hs]

/-- What the host and the sink change while no row step has begun is nothing the invariant reads. -/
theorem Controlled.of_outside {s t : State} (h : Controlled s) (hw : s.phase = .idle ∨ s.phase = .enabled)
    (ht : t = { s with cfg := t.cfg, pal := t.pal, palWritten := t.palWritten, inp := t.inp,
                       touched := t.touched, sinkReady := t.sinkReady, inputs := t.inputs,
                       reads := t.reads, draws := t.draws }) : Controlled t := by
  have hp : t.phase = s.phase := by rw [ht]
  have stalled : t.phase = .decompress → t.sinkReady = false → ∀ n, completes n t = false := by
    rw [hp]; rcases hw with hw | hw <;> simp [hw]
  have held : t.phase = .deinterleave ∨ t.phase = .resolve ∨ t.phase = .handoff → t.sinkReady = true := by
    rw [hp]; rcases hw with hw | hw <;> simp [hw]
  rw [ht] at stalled held ⊢
  exact ⟨h.busyPhase, h.cursorBound, h.rowOwed, h.rowsDone, h.validAfterRow, h.checked, h.derived,
    h.outcntBound, h.stepBound, stalled, held⟩

/-- On the outside's turn no row step has begun: a complete row has its sink (log 25). -/
theorem Controlled.waiting {s : State} (h : Controlled s) (hr : rowStepRuns s = false) :
    s.phase = .idle ∨ s.phase = .enabled := by
  cases hp : s.phase with
  | idle => exact .inl rfl
  | enabled => exact .inr rfl
  | handoff =>
    have hs := h.sinkHeld (.inr (.inr hp))
    simp [rowStepRuns, hp, hs] at hr
  | _ => simp [rowStepRuns, hp] at hr

theorem Controlled.phase_idle {s : State} (h : Controlled s) (hb : s.state ≠ .busy) : s.phase = .idle :=
  Classical.not_not.1 fun hp => hb (h.busyPhase.2 hp)

theorem Controlled.busy {s : State} (h : Controlled s) (hp : s.phase ≠ .idle) : s.state = .busy :=
  h.busyPhase.2 hp

/-! ### Commands -/

theorem latchOf_derived (c : Cfg) : LatchDerived (latchOf c) := ⟨rfl, rfl, rfl⟩

/-- An error entry keeps the invariant (R222). -/
theorem raiseError_controlled {s : State} (h : Controlled s) (c : ErrCode) (o e f : Word) :
    Controlled (raiseError c o e f s) :=
  .of_closed (.inr rfl) rfl rfl h.cursorBound h.derived

/-- A START whose checks pass opens a session at row 0, done at once for an image of no rows (R181). -/
theorem sessionReady_controlled {s : State} (h : Controlled s) (hb : s.state ≠ .busy)
    (hv : validate s.params (latchOf s.cfg) = none) : Controlled (sessionReady (openSession s)) := by
  have hst : (sessionReady (openSession s)).state = if s.cfg.height = 0 then .done else .ready := rfl
  refine .of_rest (h.phase_idle hb) ?_ (Nat.zero_le _) (latchOf_derived _) ?_ ?_ (by simp) fun _ => hv
  all_goals
    rw [hst]
    split
  · simp
  · simp
  · simp
  · next hz => exact fun _ => show 0 < s.cfg.height by bv_omega
  · next hz => exact fun _ => hz.symm
  · simp

/-- START keeps the invariant (R181, R182, R187). -/
theorem execStart_controlled {s t : State} (h : Controlled s) (he : execStart s = .next t) :
    Controlled t := by
  rcases execStart_next he with ⟨-, rfl⟩ | ⟨hb, hv, rfl⟩ | ⟨-, r, -, rfl⟩
  · exact h
  · exact sessionReady_controlled h hb hv
  · exact .of_closed (.inr rfl) rfl rfl (Nat.zero_le _) (latchOf_derived _)

/-- An accepted STEP owes its row, and CURSOR starts from its own value (R183, R188). -/
theorem acceptStep_controlled {s : State} (h : Controlled s) (hs : s.state = .ready) :
    Controlled (acceptStep s) where
  busyPhase := by simp
  cursorBound := h.cursorBound
  rowOwed _ := h.rowOwed (.inl hs)
  rowsDone := by simp
  validAfterRow := by simp
  checked _ := h.checked (by simp [inSession, hs])
  derived := h.derived
  outcntBound := trivial
  stepBound _ := BitVec.le_refl _
  stalledFails := by simp
  sinkHeld := by simp

theorem clearRowValid_controlled {s : State} (h : Controlled s) (hb : s.state ≠ .busy) :
    Controlled { s with rowValid := false } := by
  have hp := h.phase_idle hb
  exact ⟨h.busyPhase, h.cursorBound, h.rowOwed, h.rowsDone, by simp, h.checked, h.derived, h.outcntBound,
    h.stepBound, by simp [hp], by simp [hp]⟩

/-- STEP keeps the invariant (R183, R185, R186, R187). -/
theorem execStep_controlled {s t : State} (h : Controlled s) (he : execStep s = .next t) :
    Controlled t := by
  rcases execStep_next he with ⟨-, rfl⟩ | ⟨hs, rfl⟩ | ⟨hs, rfl⟩ | ⟨-, rfl⟩
  · exact raiseError_controlled h _ _ _ _
  · exact acceptStep_controlled h hs
  · exact clearRowValid_controlled h (by simp [hs])
  · exact h

/-- CURSOR after an ABORT stays within S.LEN: in BUSY it is free between its value at the STEP and S.LEN
(R188). -/
theorem Controlled.abortCursor_le {s : State} (h : Controlled s) : abortCursor s ≤ s.latch.len := by
  have hc := h.cursorBound
  unfold abortCursor
  split
  · next hb =>
    have hs := h.stepBound hb
    have hlen := s.latch.len.isLt
    have hmod : Config.freeAbortCursor s.draws % (s.latch.len.toNat - s.stepCursor.toNat + 1) <
        s.latch.len.toNat - s.stepCursor.toNat + 1 := Nat.mod_lt _ (Nat.succ_pos _)
    simp only [BitVec.le_def, BitVec.toNat_ofNat] at hc hs ⊢
    exact (Nat.mod_le _ _).trans (by omega)
  · exact hc

/-- ABORT keeps the invariant (R188). -/
theorem execAbort_controlled {s t : State} (h : Controlled s) (he : execAbort s = .next t) :
    Controlled t := by
  rcases execAbort_next he with ⟨hs, rfl⟩ | ⟨-, rfl⟩
  · exact clearRowValid_controlled h (by simp [hs])
  · exact .of_closed (.inl rfl) rfl rfl h.abortCursor_le h.derived

/-! ### Inputs -/

/-- Reset leaves nothing open, and keeps nothing the invariant bounds (R250). -/
theorem resetBlock_controlled (s : State) : Controlled (resetBlock s) :=
  .of_closed (.inl rfl) rfl rfl (BitVec.le_refl _) (latchOf_derived State.reset.cfg)

/-- A host write keeps the invariant. -/
theorem writeAt_controlled {off : Nat} {v : Word} {s t : State} (h : Controlled s)
    (hw : s.phase = .idle ∨ s.phase = .enabled) (ht : writeAt off v s = .next t) : Controlled t := by
  rcases writeAt_next ht with ht | ⟨-, i, c, ht⟩ | ⟨-, -, he⟩ | ⟨-, -, he⟩ | ⟨-, -, he⟩
  · exact h.of_outside hw (by rw [ht])
  · exact h.of_outside hw (by rw [ht])
  · exact execStart_controlled h he
  · exact execStep_controlled h he
  · exact execAbort_controlled h he

/-- Every input keeps the invariant while no row step has begun. -/
theorem takeInput_controlled {i : Input} {s t : State} (h : Controlled s)
    (hw : s.phase = .idle ∨ s.phase = .enabled) (ht : takeInput i s = .next t) : Controlled t := by
  rcases takeInput_next ht with ⟨a, w, v, off, -, -, hwrite⟩ | ⟨-, ht⟩ | ⟨-, rfl⟩ | ⟨a, bs, -, -, ht⟩ |
      ⟨b, -, ht⟩ | ⟨-, rfl⟩
  · exact writeAt_controlled h hw hwrite
  · exact h.of_outside hw (by rw [ht])
  · exact h
  · exact h.of_outside hw (by rw [ht, pokeAll_frame])
  · exact h.of_outside hw (by rw [ht])
  · exact resetBlock_controlled s

/-! ### The row step -/

/-- The row step begins with OUTCNT 0; in a stall its decompression never fills the row (log 25). -/
theorem beginRow_controlled {s : State} (h : Controlled s) (hm : mayBegin s = true) :
    Controlled (beginRow s) := by
  have hb : s.state = .busy := h.busy (by simp [mayBegin_enabled hm])
  exact ⟨by simp [hb], h.cursorBound, h.rowOwed, h.rowsDone, h.validAfterRow, h.checked, h.derived,
    Nat.zero_le _, h.stepBound, fun _ hs => mayBegin_stalled hm hs, by simp⟩

/-- A decompression that goes on keeps the invariant, its OUTCNT within S.TARGET (R101, R109). -/
theorem Progress.controlled {s t : State} (hp : Progress s t) (h : Controlled s)
    (hd : s.phase = .decompress) (hn : decompressStep s = .next t)
    (ho : t.outcnt ≤ s.latch.target.toNat) : Controlled t := by
  have hb := h.busy (by simp [hd])
  have hlatch : t.latch = s.latch := by rw [hp.frame]
  have hphase : t.phase = .decompress := by rw [hp.frame]; exact hd
  have hcur : t.cursor ≤ t.latch.len := by rw [hlatch]; exact hp.cursorBound h.cursorBound
  have hout : OutcntBounded t := by simpa [OutcntBounded, hphase, hlatch] using ho
  have hstep := BitVec.le_trans (h.stepBound hb) hp.cursorUp
  have hstall : t.phase = .decompress → t.sinkReady = false → ∀ n, completes n t = false := by
    intro hd' hs
    have hs' : s.sinkReady = false := by rw [← hs, hp.frame]
    exact (completes_next hn (h.stalledFails hd hs')).2 hd'
  have hheld : t.phase = .deinterleave ∨ t.phase = .resolve ∨ t.phase = .handoff → t.sinkReady = true := by
    simp [hphase]
  rw [hp.frame] at hcur hout hstall hheld ⊢
  exact ⟨h.busyPhase, hcur, h.rowOwed, h.rowsDone, h.validAfterRow, h.checked, h.derived, hout,
    fun _ => hstep, hstall, hheld⟩

/-- An error of the decompression keeps the invariant. -/
theorem Raised.controlled {s t : State} (hr : Raised s t) (h : Controlled s) : Controlled t := by
  obtain ⟨u, c, o, e, f, hp, rfl⟩ := hr
  have hlatch : u.latch = s.latch := by rw [hp.frame]
  refine .of_closed (.inr rfl) rfl rfl ?_ ?_
  · rw [raiseError_cursor, raiseError_latch, hlatch]; exact hp.cursorBound h.cursorBound
  · rw [raiseError_latch, hlatch]; exact h.derived

/-- A filled row has its sink: with a stalled one the decompression would not have filled it (log 25). -/
theorem rowDecompressed_controlled {s : State} (h : Controlled s) (hd : s.phase = .decompress)
    (hn : decompressStep s = .next (rowDecompressed s)) (ho : s.latch.target.toNat ≤ s.outcnt) :
    Controlled (rowDecompressed s) := by
  have hb := h.busy (by simp [hd])
  have hle : s.outcnt ≤ s.latch.target.toNat := by simpa [OutcntBounded, hd] using h.outcntBound
  have hsink : s.sinkReady = true := by
    cases hs : s.sinkReady with
    | true => rfl
    | false => exact absurd rfl (completes_next hn (h.stalledFails hd hs)).1
  exact ⟨by simp [hb], h.cursorBound, h.rowOwed, h.rowsDone, h.validAfterRow, h.checked, h.derived,
    Nat.le_antisymm hle ho, h.stepBound, by simp, fun _ => hsink⟩

theorem decompressStep_controlled {s t : State} (h : Controlled s) (hd : s.phase = .decompress)
    (hn : decompressStep s = .next t) : Controlled t := by
  rcases decompressStep_next hn with ⟨ho, rfl⟩ | ⟨-, hp, ho⟩ | ⟨-, hr⟩
  · exact rowDecompressed_controlled h hd hn ho
  · exact hp.controlled h hd hn ho
  · exact hr.controlled h

theorem deinterleave_controlled {s : State} (h : Controlled s) (hd : s.phase = .deinterleave) :
    Controlled (deinterleave s) := by
  have hb := h.busy (by simp [hd])
  have ho : s.outcnt = s.latch.target.toNat := by simpa [OutcntBounded, hd] using h.outcntBound
  exact ⟨by simp [hb], h.cursorBound, h.rowOwed, h.rowsDone, h.validAfterRow, h.checked, h.derived,
    ho, h.stepBound, by simp, fun _ => h.sinkHeld (.inl hd)⟩

theorem rowResolved_controlled {s u : State} (h : Controlled s) (hd : s.phase = .resolve)
    (hu : resolveColumns (List.range s.latch.width.toNat) s = .ok () u) : Controlled (rowResolved u) := by
  have hb := h.busy (by simp [hd])
  have ho : s.outcnt = s.latch.target.toNat := by simpa [OutcntBounded, hd] using h.outcntBound
  obtain ⟨hf, -⟩ := resolveColumns_ok List.nodup_range hu
  rw [hf]
  exact ⟨by simp [hb], h.cursorBound, h.rowOwed, h.rowsDone, h.validAfterRow, h.checked, h.derived,
    ho, h.stepBound, by simp, fun _ => h.sinkHeld (.inr (.inl hd))⟩

/-- The handoff ends the row: the session is done after row S.HEIGHT − 1, and owes a row before (R184). -/
theorem handoff_controlled {s : State} (h : Controlled s) (hd : s.phase = .handoff) :
    Controlled (handoff s) := by
  have hb := h.busy (by simp [hd])
  have hrow := h.rowOwed (.inr hb)
  have hchk := h.checked (by simp [inSession, hb])
  have hst : (handoff s).state = if s.row + 1 = s.latch.height then .done else .ready := rfl
  refine .of_rest rfl ?_ h.cursorBound h.derived ?_ ?_ (fun _ => ?_) fun _ => hchk
  all_goals
    rw [hst]
    split
  · simp
  · simp
  · simp
  · next hne => exact fun _ => show s.row + 1 < s.latch.height by bv_omega
  · next he => exact fun _ => he
  · simp
  · exact .inr rfl
  · exact .inl rfl

/-- Every step keeps the control invariant. -/
theorem step_controlled {s t : State} (h : Controlled s) (hst : step s = .next t) : Controlled t := by
  rcases step_next hst with ⟨hd, hn⟩ | ⟨hd, rfl⟩ | ⟨hd, u, hu, rfl⟩ | ⟨hd, -, rfl⟩ | ⟨-, hm, rfl⟩ | ⟨-, rfl⟩ |
      ⟨hr, i, rest, -, ht⟩
  · exact decompressStep_controlled h hd hn
  · exact deinterleave_controlled h hd
  · exact rowResolved_controlled h hd hu
  · exact handoff_controlled h hd
  · exact beginRow_controlled h hm
  · exact h
  · have hw := h.waiting hr
    exact takeInput_controlled (h.of_outside (t := { s with inputs := rest }) hw rfl) hw ht

end Sys2Proof.Machine
end

section
/-! THE STATE'S OBLIGATIONS (10_state.md), settled. -/

namespace Sys2Proof.Machine

/-- Settles O54, by the cases of a step: the commands and inputs between row steps, then each stage. -/
theorem controlInvariantKept : Obligations.ControlInvariantKept :=
  fun _ _ h hst => step_controlled h hst

/-- Settles O36: the resolve has no other stop, and does not run through. -/
theorem unwrittenPaletteEntryFaults : Obligations.UnwrittenPaletteEntryFaults := by
  intro s x i hp hx hi hw
  have hstop := resolveColumns_faults List.nodup_range (List.mem_range.2 hx) (columnPixel_unwritten hi hw)
  simp only [step, machineStep, hp, resolveRow, hstop]

/-- Settles O43: the write reaches PALETTE[i], which stores it exactly while no session owes a row. -/
theorem paletteWritesStoreOrDrop : Obligations.PaletteWritesStoreOrDrop := by
  intro s i v rest hwr
  have hst := hwr.step_eq.trans (writeAt_offset Reg.noConfusion v _)
  refine ⟨fun hr hb => ?_, fun hs => ?_⟩
  · have hopen : sessionOpen { s with inputs := rest } = false := by simp [sessionOpen, hr, hb]
    rw [writeReg_palette_of_open hopen] at hst
    refine ⟨_, hst, rfl, ?_, Cells.get_set_same s.palWritten i.toNat 1, fun j hj => ⟨?_, ?_⟩⟩
    · rw [Cells.get_set_same, BitVec.toNat_setWidth]
    · exact Cells.get_set_ne s.pal _ hj
    · exact Cells.get_set_ne s.palWritten 1 hj
  · have hopen : sessionOpen { s with inputs := rest } = true := (sessionOpen_iff _).2 hs
    rw [writeReg_palette_of_session hopen] at hst
    exact hst

/-- Settles O44: no register has the offset, so the decoder finds none there. -/
theorem unmappedOffsetsAreInert : Obligations.UnmappedOffsetsAreInert := by
  intro s off v rest hlt h4 hun hr hp
  refine ⟨fun hin => ?_, fun hin => ?_⟩
  · rw [step_of_read hr hp hlt h4 hin, readAt_unmapped hun]; rfl
  · rw [step_of_write hr hp hlt h4 hin, writeAt_unmapped hun]

/-- Settles O57, by the cases of a step: only a START outside BUSY and a reset load the latches. -/
theorem latchesFixedInSession : Obligations.LatchesFixedInSession := by
  intro s t hst
  rcases step_next hst with ⟨-, hn⟩ | ⟨-, rfl⟩ | ⟨-, u, hu, rfl⟩ | ⟨-, -, rfl⟩ | ⟨-, -, rfl⟩ | ⟨-, rfl⟩ |
      ⟨hr, i, rest, hin, ht⟩
  · exact .inl (decompressStep_keeps hn).1
  · exact .inl rfl
  · exact .inl (resolveColumns_keeps hu).1
  · exact .inl rfl
  · exact .inl rfl
  · exact .inl rfl
  · rcases takeInput_latch ht with hl | ⟨hb, a, w, v, off, rfl, ho, hd, hc⟩ | rfl
    · exact .inl hl
    · exact .inr (.inl ⟨hb, .of_write hr hin ho hd hc⟩)
    · exact .inr (.inr ⟨hr, by rw [hin, List.head?_cons]⟩)

/-- Settles O60, by the cases of a step: only the handoff adds an event. -/
theorem rowsLeaveOnlyWhole : Obligations.RowsLeaveOnlyWhole := by
  intro s t hst
  rcases step_next hst with ⟨-, hn⟩ | ⟨-, rfl⟩ | ⟨-, u, hu, rfl⟩ | ⟨hp, hs, rfl⟩ | ⟨-, -, rfl⟩ | ⟨-, rfl⟩ |
      ⟨-, i, rest, -, ht⟩
  · exact .inl (decompressStep_keeps hn).2
  · exact .inl rfl
  · exact .inl (resolveColumns_keeps hu).2
  · exact .inr ⟨hp, hs, _, rfl, rfl, rowBytes_length s⟩
  · exact .inl rfl
  · exact .inl rfl
  · exact .inl (takeInput_out ht :)

/-- Settles O8: what is found at an offset has it, and each register is found at its own. -/
theorem registerOffsetsAreExact : Obligations.RegisterOffsetsAreExact :=
  ⟨rfl, fun _ => rfl, decodeReg_eq_some_iff⟩

/-- Settles O41: the values are the free draws of log 9. -/
theorem busyReadsAreUnspecified : Obligations.BusyReadsAreUnspecified := by
  intro s rest hb
  have hb' : { s with inputs := rest }.state = .busy := hb
  refine ⟨fun h => ⟨Config.freeRow s.draws, ?_⟩, fun h => ⟨Config.freeCursor s.draws, ?_⟩,
    fun h => ⟨_, statusWord_busy (Config.freeRowValid s.draws), ?_⟩⟩
  · exact h.delivers (readReg_row_busy hb')
  · exact h.delivers (readReg_cursor_busy hb')
  · exact h.delivers (readReg_status_busy hb')

/-- Settles O50: the values of the definition, and an empty written mark is no written entry. -/
theorem resetValues : Obligations.ResetValues :=
  ⟨rfl, rfl, rfl, rfl, rfl, rfl, rfl, rfl, fun _ => rfl⟩

/-- Settles O52: reset leaves no session open and every storage empty. -/
theorem resetMeetsInvariants : Obligations.ResetMeetsInvariants := by
  have wf : ∀ {w : Nat}, Cells.wf ([] : Cells w) := Cells.wf_nil
  refine ⟨⟨wf, wf, wf, wf, wf, wf, wf⟩, resetBlock_controlled State.reset, ⟨fun _ _ _ => rfl, fun _ _ _ => rfl⟩,
    Nat.zero_le _, fun k r hk _ => absurd hk (Nat.not_lt_zero k)⟩

end Sys2Proof.Machine
end

section
/-! SUPPORT. The transitions of the machine, one constructor each: the cases of a step, of its inputs and of the
commands among them in one list, from which the invariants are read off (20_memory.md R72). -/

namespace Sys2Proof.Machine

/-- Everything one step can make of s. The first eight move the block, or nothing; the others take the first
pending input. -/
inductive Transition (s : State) : State → Prop
  | decompressed : s.phase = .decompress → Transition s (rowDecompressed s)
  | progressed {t : State} : s.phase = .decompress → Progress s t → Transition s t
  | failed {t : State} : s.phase = .decompress → Raised s t → Transition s t
  | deinterleaved : s.phase = .deinterleave → Transition s (deinterleave s)
  | resolved {u : State} : s.phase = .resolve →
      resolveColumns (List.range s.latch.width.toNat) s = .ok () u → Transition s (rowResolved u)
  | handedOff : s.phase = .handoff → Transition s (handoff s)
  | began : mayBegin s = true → Transition s (beginRow s)
  | waited : Transition s s
  /-- A configuration write, a dropped write or command, a read, a pause, the sink. -/
  | served (cfg : Cfg) (sinkReady : Bool) (reads : List Word) (draws : Nat) : rowStepRuns s = false →
      Transition s { popInput s with cfg := cfg, sinkReady := sinkReady, reads := reads, draws := draws }
  | paletteWritten (i : BitVec 8) (c : Rgb) : sessionOpen s = false → rowStepRuns s = false →
      Transition s { popInput s with
        pal := Cells.set s.pal i.toNat c, palWritten := Cells.set s.palWritten i.toNat 1 }
  | filled (a : Nat) (bs : List Byte) : rowStepRuns s = false → s.inputs.head? = some (.fill a bs) →
      Transition s (pokeAll a bs (popInput s))
  | started : s.state ≠ .busy → TakesCommand .start s →
      Transition s (sessionReady (openSession (popInput s)))
  | refused (r : Refused) : s.state ≠ .busy → TakesCommand .start s →
      Transition s (raiseError r.code r.offset r.expected r.found (openSession (popInput s)))
  | ordered : s.state = .idle → TakesCommand .step s →
      Transition s (raiseError .ordering 0 1 0 (popInput s))
  | accepted : s.state = .ready → TakesCommand .step s → Transition s (acceptStep (popInput s))
  /-- A STEP in DONE or an ABORT in IDLE. -/
  | rowInvalidated : s.state = .done ∨ s.state = .idle → rowStepRuns s = false →
      Transition s { popInput s with rowValid := false }
  | closed : s.state ≠ .idle → TakesCommand .abort s → Transition s (closeSession (popInput s))
  | wasReset : TakesReset s → Transition s (resetBlock (popInput s))

/-- An input that changed nothing was taken. -/
theorem Transition.dropped {s : State} (hr : rowStepRuns s = false) : Transition s (popInput s) :=
  .served s.cfg s.sinkReady s.reads s.draws hr

theorem execStart_transition {s t : State} (hc : TakesCommand .start s)
    (h : execStart (popInput s) = .next t) : Transition s t := by
  rcases execStart_next h with ⟨-, rfl⟩ | ⟨hb, -, rfl⟩ | ⟨hb, r, -, rfl⟩
  · exact .dropped hc.1
  · exact .started hb hc
  · exact .refused r hb hc

theorem execStep_transition {s t : State} (hc : TakesCommand .step s)
    (h : execStep (popInput s) = .next t) : Transition s t := by
  rcases execStep_next h with ⟨hs, rfl⟩ | ⟨hs, rfl⟩ | ⟨hs, rfl⟩ | ⟨-, rfl⟩
  · exact .ordered hs hc
  · exact .accepted hs hc
  · exact .rowInvalidated (.inl hs) hc.1
  · exact .dropped hc.1

theorem execAbort_transition {s t : State} (hc : TakesCommand .abort s)
    (h : execAbort (popInput s) = .next t) : Transition s t := by
  rcases execAbort_next h with ⟨hs, rfl⟩ | ⟨hs, rfl⟩
  · exact .rowInvalidated (.inr hs) hc.1
  · exact .closed hs hc

/-- A pending host write is one of the transitions. -/
theorem writeAt_transition {s t : State} {a v : Word} {w : AccessWidth} {rest : List Input} {off : Nat}
    (hr : rowStepRuns s = false) (hin : s.inputs = .write a w v :: rest)
    (ho : windowOffset s.params a w = .ok off) (h : writeAt off v (popInput s) = .next t) :
    Transition s t := by
  rcases writeAt_next h with ht | ⟨hs, i, c, rfl⟩ | ⟨hd, hc, he⟩ | ⟨hd, hc, he⟩ | ⟨hd, hc, he⟩
  · rw [ht]; exact .served _ s.sinkReady s.reads s.draws hr
  · exact .paletteWritten i c hs hr
  · exact execStart_transition (.of_write hr hin ho hd hc) he
  · exact execStep_transition (.of_write hr hin ho hd hc) he
  · exact execAbort_transition (.of_write hr hin ho hd hc) he

/-- A pending input is one of the transitions. -/
theorem takeInput_transition {s t : State} {i : Input} {rest : List Input} (hr : rowStepRuns s = false)
    (hin : s.inputs = i :: rest) (h : takeInput i (popInput s) = .next t) : Transition s t := by
  have hhead : s.inputs.head? = some i := by rw [hin, List.head?_cons]
  rcases takeInput_next h with ⟨a, w, v, off, rfl, ho, hw⟩ | ⟨-, ht⟩ | ⟨-, rfl⟩ | ⟨a, bs, rfl, -, rfl⟩ |
      ⟨b, -, rfl⟩ | ⟨rfl, rfl⟩
  · exact writeAt_transition hr hin ho hw
  · rw [ht]; exact .served s.cfg s.sinkReady _ _ hr
  · exact .dropped hr
  · exact .filled a bs hr hhead
  · exact .served s.cfg b s.reads s.draws hr
  · exact .wasReset ⟨hr, hhead⟩

/-- A step is one of the transitions. -/
theorem step_transition {s t : State} (h : step s = .next t) : Transition s t := by
  rcases step_next h with ⟨hd, hn⟩ | ⟨hd, rfl⟩ | ⟨hd, u, hu, rfl⟩ | ⟨hd, -, rfl⟩ | ⟨-, hm, rfl⟩ | ⟨-, rfl⟩ |
      ⟨hr, i, rest, hin, ht⟩
  · rcases decompressStep_next hn with ⟨-, rfl⟩ | ⟨-, hp, -⟩ | ⟨-, hf⟩
    · exact .decompressed hd
    · exact .progressed hd hp
    · exact .failed hd hf
  · exact .deinterleaved hd
  · exact .resolved hd hu
  · exact .handedOff hd
  · exact .began hm
  · exact .waited
  · have hpop : popInput s = { s with inputs := rest } := by rw [popInput, hin]; rfl
    exact takeInput_transition hr hin (hpop ▸ ht)

end Sys2Proof.Machine
end

section
/-! SUPPORT. The storages, the rows and CURSOR over each transition (20_memory.md R60, R62, R73). -/

namespace Sys2Proof.Machine

/-! ### The canonical form -/

/-- A decompression that goes on writes SCR alone. -/
theorem Progress.keeps_canonical {s t : State} (hp : Progress s t) (h : Canonical s) : Canonical t := by
  obtain ⟨hinp, hscr, hothers⟩ := h
  have hscr' := hp.canonical hscr
  rw [hp.frame]
  exact ⟨hinp, hscr', hothers⟩

/-- An error entry frees SCR and clears ACC (R222). -/
theorem raiseError_canonical {s : State} (h : Canonical s) (c : ErrCode) (o e f : Word) :
    Canonical (raiseError c o e f s) := by
  obtain ⟨hinp, hscr, hrb, -, hpal⟩ := h
  exact ⟨hinp, freeScr_wf hscr _, hrb, Cells.wf_nil, hpal⟩

/-- A START frees SCR, clears ACC and the marks of R76 (R181). -/
theorem openSession_canonical {s : State} (h : Canonical s) : Canonical (openSession s) := by
  obtain ⟨hinp, hscr, hrb, -, hpal, hwritten, -⟩ := h
  exact ⟨hinp, freeScr_wf hscr _, hrb, Cells.wf_nil, hpal, hwritten, Cells.wf_nil⟩

/-- An ABORT frees SCR and ACC (R188). -/
theorem closeSession_canonical {s : State} (h : Canonical s) : Canonical (closeSession s) := by
  obtain ⟨hinp, hscr, hrb, -, hpal⟩ := h
  exact ⟨hinp, freeScr_wf hscr _, hrb, freeAcc_wf s, hpal⟩

/-- A reset keeps IN and empties every other storage (R250). -/
theorem resetBlock_canonical {s : State} (h : Canonical s) : Canonical (resetBlock s) :=
  ⟨h.1, Cells.wf_nil, Cells.wf_nil, Cells.wf_nil, Cells.wf_nil, Cells.wf_nil, Cells.wf_nil⟩

theorem deinterleave_canonical {s : State} (h : Canonical s) : Canonical (deinterleave s) := by
  obtain ⟨hinp, hscr, hrb, hacc, hpal⟩ := h
  exact ⟨hinp, hscr, hrb, deinterleaved_wf hacc, hpal⟩

/-- A resolve writes RB and clears cells of ACC. -/
theorem rowResolved_canonical {s u : State} (h : Canonical s)
    (hu : resolveColumns (List.range s.latch.width.toNat) s = .ok () u) : Canonical (rowResolved u) := by
  obtain ⟨hinp, hscr, hrb, hacc, hpal⟩ := h
  obtain ⟨hf, -, -, -, hacc', hrb'⟩ := resolveColumns_ok List.nodup_range hu
  have hrb := hrb' hrb
  have hacc := hacc' hacc
  rw [hf]
  exact ⟨hinp, hscr, hrb, hacc, hpal⟩

theorem pokeAll_canonical {s : State} (h : Canonical s) (a : Nat) (bs : List Byte) :
    Canonical (pokeAll a bs s) := by
  obtain ⟨hinp, hscr, hrb, hacc, hpal, hwritten, htouched⟩ := h
  have htouched := pokeAll_touched_wf bs a s htouched
  rw [pokeAll_frame]
  exact ⟨Cells.wf_setRange bs hinp a, hscr, hrb, hacc, hpal, hwritten, htouched⟩

/-- Every transition keeps every storage canonical. -/
theorem Transition.canonical {s t : State} (ht : Transition s t) (h : Canonical s) : Canonical t := by
  have hpop : Canonical (popInput s) := h
  cases ht with
  | progressed _ hp => exact hp.keeps_canonical h
  | failed _ hr =>
    obtain ⟨u, c, o, e, f, hp, rfl⟩ := hr
    exact raiseError_canonical (hp.keeps_canonical h) c o e f
  | deinterleaved => exact deinterleave_canonical h
  | resolved _ hu => exact rowResolved_canonical h hu
  | paletteWritten i c =>
    obtain ⟨hinp, hscr, hrb, hacc, hpal, hwritten, htouched⟩ := h
    exact ⟨hinp, hscr, hrb, hacc, Cells.wf_set hpal i.toNat c,
      Cells.wf_set hwritten i.toNat 1, htouched⟩
  | filled a bs => exact pokeAll_canonical hpop a bs
  | started => exact openSession_canonical hpop
  | refused r => exact raiseError_canonical (openSession_canonical hpop) _ _ _ _
  | ordered => exact raiseError_canonical hpop _ _ _ _
  | closed => exact closeSession_canonical hpop
  | wasReset => exact resetBlock_canonical hpop
  | _ => exact h

/-! ### The rows handed out -/

/-- Before its first row a session has none to be in order. -/
theorem RowsInOrder.of_row_zero {t : State} (h : t.row = 0) : RowsInOrder t := by
  have hrow : t.row.toNat = 0 := by rw [h]; rfl
  exact ⟨hrow ▸ Nat.zero_le _, fun k r hk => absurd (hrow ▸ hk) (Nat.not_lt_zero k)⟩

/-- The handoff puts row ROW before the rows below it; ROW does not wrap around, since a row was owed (R73,
R184). -/
theorem handoff_rowsInOrder {s : State} (h : RowsInOrder s) (howed : s.row < s.latch.height) :
    RowsInOrder (handoff s) := by
  obtain ⟨hlen, hrows⟩ := h
  have hrow : (s.row + 1).toNat = s.row.toNat + 1 := by bv_omega
  simp only [RowsInOrder, handoff_row, handoff_out, handoff_latch, hrow, List.length_cons]
  refine ⟨Nat.succ_le_succ hlen, fun k r hk hr => ?_⟩
  cases k with
  | zero =>
    obtain rfl : _ = r := by simpa using hr
    exact ⟨rfl, rowBytes_length s⟩
  | succ k =>
    obtain ⟨hy, hbytes⟩ := hrows k r (Nat.lt_of_succ_lt_succ hk) (by simpa using hr)
    exact ⟨congrArg Nat.succ hy, hbytes⟩

/-- Every transition keeps the rows in order: a handoff adds one, a START and a reset begin again at 0. -/
theorem Transition.rowsInOrder {s t : State} (ht : Transition s t) (hc : Controlled s)
    (h : RowsInOrder s) : RowsInOrder t := by
  cases ht with
  | progressed _ hp => rw [hp.frame]; exact h
  | failed _ hr =>
    obtain ⟨u, c, o, e, f, hp, rfl⟩ := hr
    rw [hp.frame]; exact h
  | resolved _ hu =>
    obtain ⟨hf, -⟩ := resolveColumns_ok List.nodup_range hu
    rw [hf]; exact h
  | handedOff hp => exact handoff_rowsInOrder h (hc.rowOwed (.inr (hc.busy (by simp [hp]))))
  | filled a bs => rw [pokeAll_frame]; exact h
  | started => exact .of_row_zero rfl
  | refused r => exact .of_row_zero rfl
  | wasReset => exact .of_row_zero rfl
  | _ => exact h

/-! ### IN and the parameters -/

/-- Only a fill of the host changes IN, and nothing changes the parameters (R7, R62). -/
theorem Transition.params_inp {s t : State} (ht : Transition s t) :
    t.params = s.params ∧
      (t.inp = s.inp ∨ ∃ a bs, s.inputs.head? = some (.fill a bs) ∧ rowStepRuns s = false) := by
  cases ht with
  | progressed _ hp => rw [hp.frame]; exact ⟨rfl, .inl rfl⟩
  | failed _ hr =>
    obtain ⟨u, c, o, e, f, hp, rfl⟩ := hr
    rw [hp.frame]; exact ⟨rfl, .inl rfl⟩
  | resolved _ hu =>
    obtain ⟨hf, -⟩ := resolveColumns_ok List.nodup_range hu
    rw [hf]; exact ⟨rfl, .inl rfl⟩
  | filled a bs hr hin => rw [pokeAll_frame]; exact ⟨rfl, .inr ⟨a, bs, hin, hr⟩⟩
  | _ => exact ⟨rfl, .inl rfl⟩

/-! ### CURSOR -/

/-- An ABORT outside BUSY leaves CURSOR (R188). -/
theorem closeSession_cursor_of_not_busy {s : State} (hb : s.state ≠ .busy) :
    (closeSession s).cursor = s.cursor := if_neg hb

/-- CURSOR rises in a decompression, and moves otherwise only by a START, an ABORT in BUSY or a reset (R21,
R62). -/
theorem Transition.cursor {s t : State} (ht : Transition s t) :
    t.cursor = s.cursor ∨ (s.phase = .decompress ∧ s.cursor < t.cursor) ∨
      (s.state ≠ .busy ∧ TakesCommand .start s) ∨ (s.state = .busy ∧ TakesCommand .abort s) ∨
      TakesReset s := by
  have rises : ∀ {u : State}, s.phase = .decompress → Progress s u →
      u.cursor = s.cursor ∨ (s.phase = .decompress ∧ s.cursor < u.cursor) := by
    intro u hd hp
    have hup := hp.cursorUp
    by_cases he : u.cursor = s.cursor
    · exact .inl he
    · exact .inr ⟨hd, by bv_omega⟩
  cases ht with
  | progressed hd hp => exact (rises hd hp).imp_right .inl
  | failed hd hr =>
    obtain ⟨u, c, o, e, f, hp, rfl⟩ := hr
    exact (rises hd hp).imp_right .inl
  | resolved _ hu =>
    obtain ⟨hf, -⟩ := resolveColumns_ok List.nodup_range hu
    rw [hf]; exact .inl rfl
  | filled a bs => rw [pokeAll_frame]; exact .inl rfl
  | started hb hc => exact .inr (.inr (.inl ⟨hb, hc⟩))
  | refused r hb hc => exact .inr (.inr (.inl ⟨hb, hc⟩))
  | closed _ hc =>
    by_cases hb : s.state = .busy
    · exact .inr (.inr (.inr (.inl ⟨hb, hc⟩)))
    · exact .inl (closeSession_cursor_of_not_busy (s := popInput s) hb)
  | wasReset hr => exact .inr (.inr (.inr (.inr hr)))
  | _ => exact .inl rfl

end Sys2Proof.Machine
end

section
/-! SUPPORT. With its payload window inside IN a decompression has no fault (20_memory.md R61): each of its reads
is below S.LEN, and so below IN_LEN. -/

namespace Sys2Proof.Machine

/-- The payload window lies inside IN (R61). -/
def WindowInside (s : State) : Prop :=
  s.latch.base.toNat + s.latch.len.toNat ≤ s.params.inLen.toNat

/-- The last check of START is the window's (R182). -/
theorem validate_window {p : Params} {l : Latch} (h : validate p l = none) :
    l.base.toNat + l.len.toNat ≤ p.inLen.toNat := by
  unfold validate at h
  split_ifs at h
  next hwindow => exact Nat.le_of_not_lt hwindow

theorem Controlled.windowInside {s : State} (h : Controlled s) (hs : inSession s = true) :
    WindowInside s := validate_window (h.checked hs)

/-- A position below S.LEN is an address of IN. -/
theorem WindowInside.lt_inLen {s : State} (h : WindowInside s) {c : Word} (hc : c < s.latch.len) :
    s.latch.base.toNat + c.toNat < s.params.inLen.toNat :=
  Nat.lt_of_lt_of_le (Nat.add_lt_add_left hc _) h

theorem readIn_of_windowInside {s : State} (h : WindowInside s) :
    (∃ t, readIn s = .stop (.next t)) ∨ ∃ v d, readIn s = .ok v (advance d s) := by
  rcases readIn_cases s with ⟨-, hr⟩ | ⟨hc, ha, -⟩ | ⟨-, -, v, d, hr, -⟩
  · exact .inl ⟨_, hr⟩
  · exact absurd (h.lt_inLen hc) (Nat.not_lt_of_le ha)
  · exact .inr ⟨v, d, hr⟩

theorem copyBytes_of_windowInside {s : State} (h : WindowInside s) (n : Nat) :
    ∃ t, (copyBytes n s).outcome = .next t := by
  rcases copyBytes_cases n s with ⟨t, he, -⟩ | ⟨j, t, -, -, -, he⟩ | ⟨j, t, -, ht, hc, ha, -⟩
  · exact ⟨t, by rw [he]; rfl⟩
  · exact ⟨_, by rw [he]; rfl⟩
  · rw [payloadAddr, ht.latch_eq] at ha
    exact absurd (h.lt_inLen hc) (Nat.not_lt_of_le ha)

theorem execLit_of_windowInside {s : State} (h : WindowInside s) (n : BitVec 7) :
    ∃ t, execLit n s = .next t := by
  unfold execLit
  split
  · exact ⟨_, rfl⟩
  · exact copyBytes_of_windowInside h _

theorem execRep_of_windowInside {s : State} (h : WindowInside s) (n : BitVec 7) :
    ∃ t, execRep n s = .next t := by
  unfold execRep
  split
  · exact ⟨_, rfl⟩
  · rcases readIn_of_windowInside h with ⟨t, hr⟩ | ⟨v, d, hr⟩
    · exact ⟨t, by rw [hr]⟩
    · exact ⟨repeatByte v (repCount n) (advance d s), by rw [hr]⟩

theorem execCopy_of_windowInside {s : State} (h : WindowInside s) : ∃ t, execCopy s = .next t :=
  copyBytes_of_windowInside (s := { s with outcnt := 0 }) h _

theorem fetchControl_of_windowInside {s : State} (h : WindowInside s) : ∃ t, fetchControl s = .next t := by
  unfold fetchControl
  rcases readIn_of_windowInside (s := markControl s) h with ⟨t, hr⟩ | ⟨b, d, hr⟩
  · exact ⟨t, by rw [hr]⟩
  · have ha : WindowInside (advance d (markControl s)) := h
    rw [hr]
    rcases decodeControl_cases b with ⟨n, hd⟩ | hd | ⟨n, hd⟩
    · simpa only [hd, exec] using execLit_of_windowInside ha n
    · exact ⟨advance d (markControl s), by simp only [hd, exec, execNop]⟩
    · simpa only [hd, exec] using execRep_of_windowInside ha n

theorem decompressStep_of_windowInside {s : State} (h : WindowInside s) :
    ∃ t, decompressStep s = .next t := by
  unfold decompressStep
  split
  · split
    · exact execCopy_of_windowInside h
    · exact fetchControl_of_windowInside h
  · exact ⟨_, rfl⟩

end Sys2Proof.Machine
end

section
/-! SUPPORT. The host's reads, its writes and its fill, by what each returns or stores (20_memory.md R61, R67, R68,
R76). -/

namespace Sys2Proof.Machine

/-! ### Register reads and writes -/

/-- A read without a draw delivers its value and changes nothing (R68). -/
theorem Reads.returns {r : Reg} {v : Word} {s : State} {rest : List Input}
    (hv : readReg r { s with inputs := rest } = .ok v { s with inputs := rest }) (h : Reads r rest s) :
    step s = .next { s with inputs := rest, reads := v :: s.reads } :=
  h.delivers hv

theorem readReg_row {s : State} (hb : s.state ≠ .busy) : readReg .row s = .ok (s.row.setWidth 32) s :=
  if_neg hb

theorem readReg_cursor {s : State} (hb : s.state ≠ .busy) : readReg .cursor s = .ok s.cursor s :=
  if_neg hb

theorem readReg_status {s : State} (hb : s.state ≠ .busy) :
    readReg .status s = .ok (statusWord s.state s.rowValid) s := if_neg hb

theorem readReg_palette {s : State} {i : BitVec 8} (hw : Cells.get s.palWritten i.toNat = 1) :
    readReg (.palette i) s = .ok ((Cells.get s.pal i.toNat).setWidth 32) s := by
  simp only [readReg, palRead, hw, if_true]

/-- STATUS outside BUSY: the state's number, and ROW_VALID in bit 3 (R24, R27). -/
theorem Reads.returns_status {s : State} {rest : List Input} {st : SessState} {valid invalid : Word}
    (hs : s.state = st) (hb : st ≠ .busy) (hvalid : statusWord st true = valid)
    (hinvalid : statusWord st false = invalid) (h : Reads .status rest s) :
    step s = .next { s with inputs := rest, reads := (if s.rowValid then valid else invalid) :: s.reads } := by
  have hw : statusWord s.state s.rowValid = if s.rowValid then valid else invalid := by
    rw [hs]
    cases s.rowValid with
    | true => exact hvalid
    | false => exact hinvalid
  exact hw ▸ h.returns (readReg_status (s := { s with inputs := rest }) (hs ▸ hb))

/-- STRIDE over the integers: 16 bits hold it (R41). -/
theorem strideOf_setWidth (w : Half) :
    (strideOf w).setWidth 32 = BitVec.ofNat 32 ((w.toNat + 15) / 16 * 2) := by
  have hw := w.isLt
  apply BitVec.eq_of_toNat_eq
  simp only [strideOf, BitVec.toNat_setWidth, BitVec.toNat_ofNat]
  omega

/-- A pending write to a register other than CTRL stores. -/
theorem Writes.stores {r : Reg} {v : Word} {s : State} {rest : List Input} (hr : r ≠ .ctrl)
    (h : Writes r v rest s) : step s = .next (writeReg r v { s with inputs := rest }) :=
  h.step_eq.trans (writeAt_offset hr v _)

/-- An access inside the window that is not an aligned 32-bit one has no offset (R67). -/
theorem windowOffset_odd {p : Params} {off : Nat} {w : AccessWidth} (hp : p.wf = true) (hlt : off < 2048)
    (hodd : w ≠ .bits32 ∨ off % 4 ≠ 0) :
    windowOffset p (p.regBase + BitVec.ofNat 32 off) w = .error .accessShape := by
  have hbase : p.regBase.toNat % 2048 = 0 := by
    simp only [Params.wf, Bool.and_eq_true, beq_iff_eq] at hp
    exact hp.2
  have haddr : (p.regBase + BitVec.ofNat 32 off).toNat = p.regBase.toNat + off := by
    have := p.regBase.isLt
    simp only [BitVec.toNat_add, BitVec.toNat_ofNat]
    omega
  unfold windowOffset
  rw [haddr, if_neg (by omega), Nat.add_sub_cancel_left, if_pos hodd]

/-! ### The fill -/

/-- One byte of a fill marks its own address, if that is inside the payload window of an open session (R76). -/
theorem pokeIn_get_touched (a : Nat) (b : Byte) (s : State) (j : Nat) :
    Cells.get (pokeIn a b s).touched j =
      if j = a ∧ inPayloadWindow s j = true then 1 else Cells.get s.touched j := by
  rw [pokeIn_touched]
  by_cases hj : j = a
  · subst hj
    cases inPayloadWindow s j <;> simp
  · simp only [hj, false_and, if_false]
    split
    · exact Cells.get_set_ne s.touched 1 hj
    · rfl

/-- A fill marks the addresses it writes inside the payload window of an open session, and no other (R76). -/
theorem pokeAll_get_touched (bs : List Byte) (a : Nat) (s : State) (j : Nat) :
    Cells.get (pokeAll a bs s).touched j =
      if (a ≤ j ∧ j < a + bs.length) ∧ inPayloadWindow s j = true then 1 else Cells.get s.touched j := by
  induction bs generalizing a s with
  | nil => rw [if_neg (by simp only [List.length_nil]; omega)]; rfl
  | cons b bs ih =>
    have hwin : inPayloadWindow (pokeIn a b s) j = inPayloadWindow s j := rfl
    rw [pokeAll, ih, hwin, pokeIn_get_touched, List.length_cons]
    by_cases hj : j = a
    · subst hj
      simp
    · have hrest : (a + 1 ≤ j ∧ j < a + 1 + bs.length) ↔ (a ≤ j ∧ j < a + (bs.length + 1)) := by omega
      simp only [hj, hrest, false_and, if_false]

/-- The step with a pending fill is the fill, in a stall too (R61, R256). -/
theorem step_of_fill {s : State} {a : Nat} {bs : List Byte} {rest : List Input} (hr : rowStepRuns s = false)
    (hin : s.inputs = .fill a bs :: rest) : step s = fillIn a bs { s with inputs := rest } :=
  step_of_input hr hin rfl

/-- The byte the fill stores at one of its addresses, and its mark (R61, R76). -/
theorem pokeAll_stores {bs : List Byte} {k : Nat} {b : Byte} (hb : bs[k]? = some b) (a : Nat) (s : State) :
    Cells.get (w := 8) (pokeAll a bs s).inp (a + k) = b ∧
      (inPayloadWindow s (a + k) = true → Cells.get (pokeAll a bs s).touched (a + k) = 1) := by
  obtain ⟨hk, -⟩ := List.getElem?_eq_some_iff.1 hb
  have hin : a ≤ a + k ∧ a + k < a + bs.length := by omega
  refine ⟨?_, fun hw => ?_⟩
  · rw [pokeAll_frame]
    simp only [Cells.get_setRange, if_pos hin, Nat.add_sub_cancel_left, List.getD, hb, Option.getD_some]
  · rw [pokeAll_get_touched, if_pos ⟨hin, hw⟩]

/-- A fill leaves every other address, and its mark, as it was. -/
theorem pokeAll_elsewhere {bs : List Byte} {a j : Nat} (hj : j < a ∨ a + bs.length ≤ j) (s : State) :
    Cells.get (w := 8) (pokeAll a bs s).inp j = Cells.get (w := 8) s.inp j ∧
      Cells.get (pokeAll a bs s).touched j = Cells.get s.touched j := by
  have hout : ¬ (a ≤ j ∧ j < a + bs.length) := by omega
  refine ⟨?_, ?_⟩
  · rw [pokeAll_frame]
    exact (Cells.get_setRange bs s.inp a j).trans (if_neg hout)
  · rw [pokeAll_get_touched, if_neg fun h => hout h.1]

end Sys2Proof.Machine
end

section
/-! THE MEMORY'S OBLIGATIONS (20_memory.md), settled. -/

namespace Sys2Proof.Machine

/-- Settles O53: each transition writes its storages by the operations that keep the form. -/
theorem canonicalFormKept : Obligations.CanonicalFormKept :=
  fun _ _ h hst => (step_transition hst).canonical h

/-- Settles O56, by the cases of a step: ROW, the events and the width move only at a handoff, a START or a
reset. -/
theorem rowsInOrderKept : Obligations.RowsInOrderKept :=
  fun _ _ hc h hst => (step_transition hst).rowsInOrder hc h

/-- Settles O48, by the cases of a step. -/
theorem blockNeverWritesIn : Obligations.BlockNeverWritesIn :=
  fun _ _ hst => (step_transition hst).params_inp

/-- Settles O49: START's window check (R182) holds in the session, so the decompression has a next state; CURSOR
is read off the cases of a step. -/
theorem payloadReadsStayInside : Obligations.PayloadReadsStayInside := by
  refine ⟨fun s hc hd hfault => ?_, fun _ _ hst => (step_transition hst).cursor⟩
  have hbusy := hc.busy (by simp [hd])
  obtain ⟨t, ht⟩ := decompressStep_of_windowInside (hc.windowInside (by simp [inSession, hbusy]))
  have hnext : step s = .next t := by simpa only [step, machineStep, hd] using ht
  cases hnext.symm.trans hfault

/-- Settles O47: the fill is the next step whatever the row waits for, and it writes address by address. -/
theorem hostFillStoresBytes : Obligations.HostFillStoresBytes := by
  intro s a bs rest hr hin
  rw [step_of_fill hr hin]
  refine ⟨fun hle => ⟨_, if_pos hle, by rw [pokeAll_frame], fun k b hb => ?_, fun j hj => ?_⟩, fun hlt => ?_⟩
  · obtain ⟨hbyte, hmark⟩ := pokeAll_stores hb a { s with inputs := rest }
    refine ⟨hbyte, fun hopen hbase hend => hmark ?_⟩
    simp [inPayloadWindow, (sessionOpen_iff { s with inputs := rest }).2 hopen, hbase, hend]
  · exact pokeAll_elsewhere hj { s with inputs := rest }
  · exact if_neg (Nat.not_le_of_lt hlt)

/-- Settles O40, register by register. -/
theorem readsReturnRegisters : Obligations.ReadsReturnRegisters := by
  intro s rest
  simp only [BitVec.ofNat_toNat, ← strideOf_setWidth]
  refine ⟨Reads.returns rfl, Reads.returns rfl, Reads.returns rfl, Reads.returns rfl, Reads.returns rfl,
    Reads.returns rfl, Reads.returns rfl, Reads.returns rfl, Reads.returns rfl, Reads.returns rfl,
    Reads.returns rfl, Reads.returns rfl, Reads.returns rfl, Reads.returns rfl, Reads.returns rfl,
    Reads.returns rfl, fun i hw => Reads.returns (readReg_palette hw),
    fun hb => ⟨Reads.returns (readReg_row hb), Reads.returns (readReg_cursor hb)⟩, ?_, ?_, ?_, ?_⟩
  · exact fun hs => Reads.returns_status hs (by decide) rfl rfl
  · exact fun hs => Reads.returns_status hs (by decide) rfl rfl
  · exact fun hs => Reads.returns_status hs (by decide) rfl rfl
  · exact fun hs => Reads.returns_status hs (by decide) rfl rfl

/-- Settles O42: no register of the nine is CTRL, and each stores its own field. -/
theorem configurationWritesStore : Obligations.ConfigurationWritesStore := by
  intro s v rest
  simp only [BitVec.ofNat_toNat]
  exact ⟨Writes.stores (by decide), Writes.stores (by decide), Writes.stores (by decide),
    Writes.stores (by decide), Writes.stores (by decide), Writes.stores (by decide),
    Writes.stores (by decide), Writes.stores (by decide), Writes.stores (by decide)⟩

/-- Settles O45: none of the nine is CTRL, and a write to each stores nothing. -/
theorem readOnlyWritesIgnored : Obligations.ReadOnlyWritesIgnored := by
  intro s r v rest hmem h
  have hctrl : r ≠ .ctrl := by rintro rfl; revert hmem; decide
  have hnone : ∀ t, writeReg r v t = t := by
    intro t
    simp only [List.mem_cons, List.not_mem_nil, or_false] at hmem
    rcases hmem with rfl | rfl | rfl | rfl | rfl | rfl | rfl | rfl | rfl <;> rfl
  rw [h.stores hctrl, hnone]

/-- Settles O46: the access is inside the window and has no offset there. -/
theorem oddAccessesRefused : Obligations.OddAccessesRefused := by
  intro s off w v rest hlt hr hp hodd hin
  have hoff := windowOffset_odd hp hlt hodd
  rcases hin with hin | hin <;> simp only [step_of_input hr hin rfl, takeInput, hoff]

end Sys2Proof.Machine
end

section
/-! SUPPORT. The three encoding spaces (30_encoding.md R80–R85): a control byte is read off its unsigned value,
a CTRL write off its three low bits, and an encoding decodes to the instruction it came from. -/

namespace Sys2Proof

/-! ### Control bytes -/

/-- c = sext_8(b) (R10, R80). -/
theorem toInt_byte (b : Byte) :
    (b.toNat < 128 ∧ b.toInt = b.toNat) ∨ (128 ≤ b.toNat ∧ b.toInt = b.toNat - 256) := by
  rw [BitVec.toInt_eq_toNat_cond]
  split
  · exact .inl ⟨by omega, rfl⟩
  · exact .inr ⟨by omega, rfl⟩

/-- R80 by the byte's unsigned value. -/
theorem decodeControl_eq_ite (b : Byte) :
    decodeControl b = if b.toNat < 128 then .lit (b.setWidth 7) else if b.toNat = 128 then .nop
      else .rep (b.setWidth 7) := by
  have hsign : b.getLsbD 7 = false ↔ b.toNat < 128 := by
    rw [← BitVec.msb_eq_getLsbD_last b, BitVec.msb_eq_decide]
    simp
  have hnop : b = 0x80 ↔ b.toNat = 128 := BitVec.toNat_inj.symm
  simp only [decodeControl, hsign, hnop]

theorem decodeControl_eq_lit_iff (b : Byte) (n : BitVec 7) :
    decodeControl b = .lit n ↔ b.toNat = n.toNat := by
  have := n.isLt
  rw [decodeControl_eq_ite]
  split_ifs <;> simp [BitVec.toNat_eq] <;> omega

theorem decodeControl_eq_nop_iff (b : Byte) : decodeControl b = .nop ↔ b.toNat = 128 := by
  rw [decodeControl_eq_ite]
  split_ifs <;> simp <;> omega

theorem decodeControl_eq_rep_iff (b : Byte) (n : BitVec 7) :
    decodeControl b = .rep n ↔ n ≠ 0 ∧ b.toNat = 128 + n.toNat := by
  have := n.isLt
  have := b.isLt
  rw [decodeControl_eq_ite]
  split_ifs <;> simp [BitVec.toNat_eq] <;> omega

/-- The encoder's LIT byte is N (R82). -/
theorem toNat_litByte (n : BitVec 7) : (n.setWidth 8).toNat = n.toNat :=
  BitVec.toNat_setWidth_of_le (by decide)

/-- The encoder's REP byte is 128 + N (R82). -/
theorem toNat_repByte (n : BitVec 7) : (0x80 ||| n.setWidth 8 : Byte).toNat = 128 + n.toNat := by
  rw [BitVec.toNat_or, toNat_litByte]
  exact (Nat.two_pow_add_eq_or_of_lt n.isLt 1).symm

/-- A control byte decodes to a well-formed instruction: REP only with N ≠ 0 (R83). -/
theorem decodeControl_wf (b : Byte) : (decodeControl b).wf = true := by
  rcases Machine.decodeControl_cases b with ⟨n, h⟩ | h | ⟨n, h⟩
  · rw [h]; rfl
  · rw [h]; rfl
  · rw [h]
    exact bne_iff_ne.2 ((decodeControl_eq_rep_iff b n).1 h).1

/-- A control byte is the encoding of what it decodes to (R83). -/
theorem encode_decodeControl (b : Byte) : encode (decodeControl b) = .control b := by
  rcases Machine.decodeControl_cases b with ⟨n, h⟩ | h | ⟨n, h⟩
  · have hb := (decodeControl_eq_lit_iff b n).1 h
    rw [h]
    exact congrArg Encoded.control (BitVec.eq_of_toNat_eq ((toNat_litByte n).trans hb.symm))
  · have hb := (decodeControl_eq_nop_iff b).1 h
    rw [h]
    exact congrArg Encoded.control (BitVec.eq_of_toNat_eq hb.symm)
  · obtain ⟨-, hb⟩ := (decodeControl_eq_rep_iff b n).1 h
    rw [h]
    exact congrArg Encoded.control (BitVec.eq_of_toNat_eq ((toNat_repByte n).trans hb.symm))

/-- R81: the operand bytes directly after the control byte, the rest directly after them. -/
theorem decodeStream_append {b : Byte} {i : Instr} {operands : List Byte} (hb : decodeControl b = i)
    (hlen : operands.length = operandBytes i) (rest : List Byte) :
    decodeStream (b :: (operands ++ rest)) = .ok (i, operands, rest) := by
  subst hb
  simp [decodeStream, ← hlen]

/-! ### Command words -/

/-- Bits 31:3 of a CTRL write are ignored (R85). -/
theorem decodeCommand_setWidth (w : Word) : decodeCommand ((w.setWidth 3).setWidth 32) = decodeCommand w := by
  have hlow : (w.setWidth 3).setWidth 32 = w &&& 7 := by
    apply BitVec.eq_of_toNat_eq
    simp only [BitVec.toNat_and, BitVec.toNat_setWidth]
    rw [Nat.mod_eq_of_lt (by omega)]
    exact (Nat.and_two_pow_sub_one_eq_mod w.toNat 3).symm
  rw [hlow]
  simp [decodeCommand, BitVec.and_assoc]

/-- R85 by the three low bits of the word. -/
theorem decodeCommand_eq_ite (w : Word) :
    decodeCommand w = if w.getLsbD 2 then some .abort else if w.getLsbD 0 then some .start
      else if w.getLsbD 1 then some .step else none := by
  have hlow : ∀ x : BitVec 3, decodeCommand (x.setWidth 32) =
      if x.getLsbD 2 then some .abort else if x.getLsbD 0 then some .start
        else if x.getLsbD 1 then some .step else none := by decide
  rw [← decodeCommand_setWidth, hlow]
  simp

/-! ### The three spaces together -/

/-- Each encoding is read back in its own space (R80, R84, R85). -/
theorem decodeEncoded_encode {i : Instr} (h : i.wf = true) : decodeEncoded (encode i) = some i := by
  cases i with
  | lit n => exact congrArg some ((decodeControl_eq_lit_iff _ n).2 (toNat_litByte n))
  | rep n =>
    have hn : n ≠ 0 := bne_iff_ne.1 h
    exact congrArg some ((decodeControl_eq_rep_iff _ n).2 ⟨hn, toNat_repByte n⟩)
  | nop => rfl
  | copy => rfl
  | start => rfl
  | step => rfl
  | abort => rfl

/-- The round trip in the control stream: the operand bytes and what follows come back too (R81). -/
theorem decodeStream_encodeStream {i : Instr} {b : Byte} {operands : List Byte} (h : i.wf = true)
    (hb : encode i = .control b) (hlen : operands.length = operandBytes i) (rest : List Byte) :
    decodeStream (encodeStream i operands ++ rest) = .ok (i, operands, rest) := by
  have hdec : decodeControl b = i := by simpa [hb, decodeEncoded] using decodeEncoded_encode h
  have hstream : encodeStream i operands = b :: operands := by simp only [encodeStream, hb]
  rw [hstream]
  exact decodeStream_append hdec hlen rest

end Sys2Proof
end

section
/-! SUPPORT. The assembler's lines (30_encoding.md R86): disassembly gives each run back. -/

namespace Sys2Proof

theorem decodeStream_asmLit {bs : List Byte} (h1 : 1 ≤ bs.length) (h2 : bs.length ≤ 128) (rest : List Byte) :
    decodeStream (asmLit bs ++ rest) = .ok (.lit (BitVec.ofNat 7 (bs.length - 1)), bs, rest) := by
  have hn : (BitVec.ofNat 7 (bs.length - 1)).toNat = bs.length - 1 := by
    rw [BitVec.toNat_ofNat]
    omega
  have hb : (BitVec.ofNat 8 (bs.length - 1)).toNat = bs.length - 1 := by
    rw [BitVec.toNat_ofNat]
    omega
  refine decodeStream_append ((decodeControl_eq_lit_iff _ _).2 (hb.trans hn.symm)) ?_ rest
  simp only [operandBytes, hn]
  omega

theorem decodeStream_asmRep {n : Nat} (h1 : 2 ≤ n) (h2 : n ≤ 128) (b : Byte) (rest : List Byte) :
    decodeStream (asmRep n b ++ rest) = .ok (.rep (BitVec.ofNat 7 (129 - n)), [b], rest) := by
  have hn : (BitVec.ofNat 7 (129 - n)).toNat = 129 - n := by rw [BitVec.toNat_ofNat]; omega
  have hb : (BitVec.ofNat 8 (257 - n)).toNat = 257 - n := by rw [BitVec.toNat_ofNat]; omega
  have hne : BitVec.ofNat 7 (129 - n) ≠ 0 := by
    intro h
    have h0 : 0 = 129 - n := by rwa [h] at hn
    omega
  exact decodeStream_append ((decodeControl_eq_rep_iff _ _).2 ⟨hne, by omega⟩) rfl rest

end Sys2Proof
end

section
/-! SUPPORT. The pseudo-instructions FILL and COPY (30_encoding.md R87) as sequences of runs (40_rle.md R111). -/

namespace Sys2Proof.Machine

theorem encodeRuns_append (rs qs : List Run) : encodeRuns (rs ++ qs) = encodeRuns rs ++ encodeRuns qs := by
  simp [encodeRuns]

theorem expandRuns_append (rs qs : List Run) : expandRuns (rs ++ qs) = expandRuns rs ++ expandRuns qs := by
  simp [expandRuns]

/-! ### FILL -/

theorem encodeRuns_fillRuns (n : Nat) (b : Byte) : encodeRuns (fillRuns n b) = asmFill n b := by
  have hblocks : encodeRuns (List.replicate (n / 128) (.rep 128 b)) =
      (List.replicate (n / 128) (asmRep 128 b)).flatten := by simp [encodeRuns, Run.encoded]
  rw [fillRuns, encodeRuns_append, hblocks, asmFill]
  split_ifs <;> simp [encodeRuns, Run.encoded]

theorem fillRuns_wf (n : Nat) (b : Byte) : ∀ r ∈ fillRuns n b, r.wf = true := by
  intro r hr
  rw [fillRuns, List.mem_append] at hr
  rcases hr with hr | hr
  · rw [List.eq_of_mem_replicate hr]
    rfl
  · split_ifs at hr with hrep hlit
    · rw [List.mem_singleton.1 hr]
      simp only [Run.wf, Bool.and_eq_true, decide_eq_true_eq]
      omega
    · rw [List.mem_singleton.1 hr]
      rfl
    · cases hr

theorem expandRuns_fillRuns (n : Nat) (b : Byte) : expandRuns (fillRuns n b) = List.replicate n b := by
  have hblocks : expandRuns (List.replicate (n / 128) (.rep 128 b)) = List.replicate (n / 128 * 128) b := by
    rw [expandRuns, List.map_replicate, Run.expanded, List.flatten_replicate_replicate]
  have htail : expandRuns (if 2 ≤ n % 128 then [.rep (n % 128) b] else if n % 128 = 1 then [.lit [b]] else []) =
      List.replicate (n % 128) b := by
    split_ifs with hrep hlit
    · simp [expandRuns, Run.expanded]
    · simp [expandRuns, Run.expanded, hlit]
    · simp [expandRuns, show n % 128 = 0 by omega]
  rw [fillRuns, expandRuns_append, hblocks, htail, List.replicate_append_replicate, Nat.div_add_mod']

/-! ### COPY -/

/-- The runs R87 gives for `COPY`: a LIT of each block, in order, then one LIT of what remains. -/
def copyRuns (blocks : List (List Byte)) (tail : List Byte) : List Run :=
  blocks.map Run.lit ++ (if tail = [] then [] else [Run.lit tail])

theorem encodeRuns_copyRuns_cons (block : List Byte) (blocks : List (List Byte)) (tail : List Byte) :
    encodeRuns (copyRuns (block :: blocks) tail) = asmLit block ++ encodeRuns (copyRuns blocks tail) := rfl

theorem copyRuns_wf {blocks : List (List Byte)} {tail : List Byte}
    (hblocks : ∀ block ∈ blocks, block.length = 128) (htail : tail.length ≤ 128) :
    ∀ r ∈ copyRuns blocks tail, r.wf = true := by
  intro r hr
  rw [copyRuns, List.mem_append] at hr
  rcases hr with hr | hr
  · obtain ⟨block, hmem, rfl⟩ := List.mem_map.1 hr
    simp [Run.wf, hblocks block hmem]
  · split_ifs at hr with hnil
    · cases hr
    · rw [List.mem_singleton.1 hr]
      have := List.length_pos_iff.2 hnil
      simp only [Run.wf, Bool.and_eq_true, decide_eq_true_eq]
      omega

theorem expandRuns_copyRuns (blocks : List (List Byte)) (tail : List Byte) :
    expandRuns (copyRuns blocks tail) = blocks.flatten ++ tail := by
  have hblocks : expandRuns (blocks.map Run.lit) = blocks.flatten := by
    simp [expandRuns, Function.comp_def, Run.expanded]
  rw [copyRuns, expandRuns_append, hblocks]
  split_ifs with hnil <;> simp [expandRuns, Run.expanded, hnil]

/-- k blocks of 128 bytes are cut off the front, and a last LIT takes what remains. -/
theorem asmCopyBlocks_eq (k : Nat) (bs : List Byte) (h : 128 * k ≤ bs.length) :
    ∃ blocks tail, bs = blocks.flatten ++ tail ∧ (∀ block ∈ blocks, block.length = 128) ∧ blocks.length = k ∧
      tail.length = bs.length - 128 * k ∧ asmCopyBlocks k bs = encodeRuns (copyRuns blocks tail) := by
  induction k generalizing bs with
  | zero =>
    refine ⟨[], bs, rfl, by simp, rfl, rfl, ?_⟩
    by_cases hnil : bs = [] <;> simp [asmCopyBlocks, copyRuns, encodeRuns, Run.encoded, hnil]
  | succ k ih =>
    obtain ⟨blocks, tail, hbs, hblocks, hk, htail, henc⟩ := ih (bs.drop 128) (by rw [List.length_drop]; omega)
    refine ⟨bs.take 128 :: blocks, tail, ?_, ?_, by simp [hk], ?_, ?_⟩
    · rw [List.flatten_cons, List.append_assoc, ← hbs, List.take_append_drop]
    · exact List.forall_mem_cons.2 ⟨by rw [List.length_take]; omega, hblocks⟩
    · rw [htail, List.length_drop]
      omega
    · rw [asmCopyBlocks, henc, encodeRuns_copyRuns_cons]

end Sys2Proof.Machine
end

section
/-! SUPPORT. The step in the decompression phase (40_rle.md R101, R105). -/

namespace Sys2Proof.Machine

theorem step_of_decompress {s : State} (h : s.phase = .decompress) : step s = decompressStep s := by
  simp only [step, machineStep, h]

/-- S.COMP = 0 selects COPY (R84). -/
theorem decompressStep_of_copy {s : State} (ho : s.outcnt < s.latch.target.toNat) (hc : s.latch.comp = 0) :
    decompressStep s = exec .copy s := by
  rw [decompressStep, if_pos ho, if_pos hc]

/-- In a run-length session an unfinished row fetches a control byte (R101). -/
theorem decompressStep_of_control {s : State} (ho : s.outcnt < s.latch.target.toNat) (hc : s.latch.comp ≠ 0) :
    decompressStep s = fetchControl s := by
  rw [decompressStep, if_pos ho, if_neg hc]

/-- A readable control byte is consumed, its offset noted, and its instruction run (R101). -/
theorem fetchControl_of_readable {s : State} (h : Readable 1 s) :
    ∃ b d, fetchControl s = exec (decodeControl b) (advance d (markControl s)) ∧
      (Cells.get s.touched (payloadAddr s) = 0 → b = Cells.get (w := 8) s.inp (payloadAddr s) ∧ d = false) := by
  obtain ⟨b, d, hread, hb⟩ := readIn_of_readable (s := markControl s) h
  exact ⟨b, d, by rw [fetchControl, hread], hb⟩

end Sys2Proof.Machine
end

section
/-! THE ENCODING'S OBLIGATIONS (30_encoding.md), settled. -/

namespace Sys2Proof.Machine

/-- Settles O6: the instruction is read back in its own space, and its operands are what the stream gives it. -/
theorem decodeInvertsEncode : Obligations.DecodeInvertsEncode :=
  fun _ h => ⟨decodeEncoded_encode h, fun _ hb _ rest hlen => decodeStream_encodeStream h hb hlen rest⟩

/-- Settles O1: the ranges of the signed value are those of the unsigned one. -/
theorem controlByteSelectsForm : Obligations.ControlByteSelectsForm := by
  intro b
  have hsigned := toInt_byte b
  rw [decodeControl_eq_ite]
  refine ⟨fun h => ?_, fun h => ?_, fun h1 h2 => ?_⟩
  · rw [if_pos (by omega)]
  · rw [if_neg (by omega), if_pos (by omega)]
  · rw [if_neg (by omega), if_neg (by omega)]

/-- Settles O3, by the form the signed value selects. -/
theorem operandsFollowControlByte : Obligations.OperandsFollowControlByte := by
  intro b operands rest
  have hsigned := toInt_byte b
  obtain ⟨hlit, hnop, hrep⟩ := controlByteSelectsForm b
  refine ⟨fun h => ?_, fun h1 h2 => ?_, fun h => ?_, fun hlen => decodeStream_append rfl hlen rest⟩
  · rw [hlit h]
    simp only [operandBytes, BitVec.toNat_setWidth]
    omega
  · rw [hrep h1 h2]
    rfl
  · rw [hnop h]
    rfl

/-- Settles O9: within their lengths LIT and REP assemble to what disassembles to them, outside they are refused. -/
theorem assembledLinesDecode : Obligations.AssembledLinesDecode := by
  refine ⟨fun bs rest h1 h2 => ⟨?_, decodeStream_asmLit h1 h2 rest⟩, fun bs h => ?_,
    fun n b rest h1 h2 => ⟨?_, decodeStream_asmRep h1 h2 b rest⟩, fun n b h => ?_,
    ⟨rfl, decodeStream_append (operands := []) rfl rfl⟩, fun bs => rfl⟩
  · exact if_pos ⟨h1, h2⟩
  · exact if_neg (by omega)
  · exact if_pos ⟨h1, h2⟩
  · exact if_neg (by omega)

/-- Settles O10: FILL by its runs' bytes, COPY by induction on its blocks. -/
theorem pseudoInstructionsExpand : Obligations.PseudoInstructionsExpand := by
  refine ⟨fun n b h => ⟨?_, fillRuns_wf n b, expandRuns_fillRuns n b⟩, fun bs h => ?_⟩
  · rw [encodeRuns_fillRuns]
    exact if_pos h
  · obtain ⟨blocks, tail, hbs, hblocks, hk, htail, henc⟩ :=
      asmCopyBlocks_eq (bs.length / 128) bs (Nat.mul_div_le _ _)
    refine ⟨blocks, tail, hbs, hblocks, hk, by omega, ?_, copyRuns_wf hblocks (by omega), ?_⟩
    · exact (if_pos h).trans (congrArg some henc)
    · exact (expandRuns_copyRuns blocks tail).trans hbs.symm

/-- Settles O2: the byte's form is read off its value, and the encoder gives the value back. -/
theorem everyControlByteDefined : Obligations.EveryControlByteDefined :=
  fun b => ⟨decodeControl_wf b, encode_decodeControl b⟩

/-- Settles O4: the byte is N for LIT and 128 + N with N ≠ 0 for REP. -/
theorem runCountsFromControlByte : Obligations.RunCountsFromControlByte := by
  intro b n
  have hsigned := toInt_byte b
  have hn := n.isLt
  refine ⟨fun h => ?_, fun h => ?_, fun h => by rw [h]; rfl⟩
  · have hb := (decodeControl_eq_lit_iff b n).1 h
    simp only [litCount]
    omega
  · obtain ⟨hne, hb⟩ := (decodeControl_eq_rep_iff b n).1 h
    have hpos : n.toNat ≠ 0 := fun h0 => hne (BitVec.eq_of_toNat_eq h0)
    simp only [repCount]
    omega

/-- Settles O5: the first of the bits 2, 0 and 1 that is set decides. -/
theorem commandWordSelectsCommand : Obligations.CommandWordSelectsCommand := by
  intro w
  rw [decodeCommand_eq_ite]
  refine ⟨fun h2 => ?_, fun h2 h0 => ?_, fun h2 h0 h1 => ?_, fun h2 h0 h1 => ?_⟩
  · simp only [h2, reduceIte]
  · simp only [h2, h0, reduceIte, Bool.false_eq_true]
  · simp only [h2, h0, h1, reduceIte, Bool.false_eq_true]
  · simp only [h2, h0, h1, reduceIte, Bool.false_eq_true]

/-- Settles O7: ten closed words, decoded. -/
theorem handwrittenWordsDecode : Obligations.HandwrittenWordsDecode := by
  unfold Obligations.HandwrittenWordsDecode
  decide

/-- Settles O25: an unfinished row of a session with S.COMP = 0 is copied whole. -/
theorem stepRunsCopy : Obligations.StepRunsCopy :=
  fun _ hp ho hc => (step_of_decompress hp).trans (decompressStep_of_copy ho hc)

/-- Settles O28: the byte read is NOP's, and NOP leaves the fetched state as it is (R104). -/
theorem nopByteMovesOnlyCursor : Obligations.NopByteMovesOnlyCursor := by
  intro s hp ho hc hread ht hbyte
  obtain ⟨b, d, hfetch, hb⟩ := fetchControl_of_readable hread
  obtain ⟨rfl, rfl⟩ := hb ht
  rw [step_of_decompress hp, decompressStep_of_control ho hc, hfetch, hbyte]
  rfl

end Sys2Proof.Machine
end

section
/-! SUPPORT. LIT, REP and COPY by how they end (40_rle.md R100–R105): the run written, RUN_OVERFLOW before its
first read, or OVERRUN where the payload ends. -/

namespace Sys2Proof.Machine

/-! ### Error entry -/

/-- Error entry is raiseError, with the record of its code (R222). -/
theorem raiseError_errorEntered {c : ErrCode} {code kind : Nat}
    (hc : errWord c = BitVec.ofNat 32 (code + 256 * kind)) (offset expected found : Word) (s : State) :
    ErrorEntered code kind offset expected found s (raiseError c offset expected found s) := by
  rw [ErrorEntered, raiseError, hc]

theorem errWord_overrun : errWord .overrun = BitVec.ofNat 32 (9 + 256 * 1) := rfl

theorem errWord_runOverflow : errWord .runOverflow = BitVec.ofNat 32 (10 + 256 * 1) := rfl

/-- At the end of the payload the read enters OVERRUN (R100). -/
theorem readIn_overrun {s : State} (h : s.latch.len ≤ s.cursor) :
    ∃ t, readIn s = .stop (.next t) ∧
      ErrorEntered 9 1 s.cursor s.latch.target (BitVec.ofNat 32 s.outcnt) s t :=
  ⟨_, readIn_of_end h, raiseError_errorEntered errWord_overrun _ _ _ _⟩

theorem runOverflow_errorEntered (n : Nat) (s : State) :
    ErrorEntered 10 1 s.ctrlOff (s.latch.target - BitVec.ofNat 32 s.outcnt) (BitVec.ofNat 32 n) s
      (runOverflow n s) :=
  raiseError_errorEntered errWord_runOverflow _ _ _ _

/-- In BUSY an error entry leaves in SCR what the row copied (log 8). -/
theorem get_raiseError_scr {s : State} (hb : s.state = .busy) {a : Nat} (ha : a < s.outcnt) (c : ErrCode)
    (o e f : Word) : Cells.get (w := 8) (raiseError c o e f s).scr a = Cells.get (w := 8) s.scr a := by
  rw [raiseError_scr, if_pos hb]
  exact freeScr_keeps _ _ ha

/-! ### The copy -/

theorem Copied.cursor_eq {n : Nat} {s t : State} (h : Copied n s t) :
    t.cursor = s.cursor + BitVec.ofNat 32 n := by
  have hc := h.cursor
  apply BitVec.eq_of_toNat_eq
  rw [hc, BitVec.toNat_add, BitVec.toNat_ofNat]
  omega

/-- Readable bytes are copied, and nothing else is written. -/
theorem copyBytes_completes {n : Nat} {s : State} (h : Readable n s) :
    ∃ t, (copyBytes n s).outcome = .next t ∧
      t = { s with scr := t.scr, outcnt := s.outcnt + n, cursor := s.cursor + BitVec.ofNat 32 n,
                   draws := t.draws } ∧
      (∀ k, k < n → Cells.get s.touched (payloadAddr s + k) = 0 →
        Cells.get (w := 8) t.scr (s.outcnt + k) = Cells.get (w := 8) s.inp (payloadAddr s + k)) ∧
      (∀ a, a < s.outcnt ∨ s.outcnt + n ≤ a →
        Cells.get (w := 8) t.scr a = Cells.get (w := 8) s.scr a) := by
  obtain ⟨t, he, ht⟩ := copyBytes_of_readable h
  exact ⟨t, by rw [he, Flow.outcome], ht.cursor_eq ▸ ht.frame, ht.copied, ht.elsewhere⟩

/-- A copy that passes the payload's end raises OVERRUN there, after the j bytes it found. -/
theorem copyBytes_of_end {n j : Nat} {s : State} (hj : j < n) (h : Readable j s)
    (hend : s.cursor.toNat + j = s.latch.len.toNat) :
    ∃ t, Copied j s t ∧ t.cursor = s.latch.len ∧ copyBytes n s = .stop (.next
      (raiseError .overrun s.latch.len s.latch.target (BitVec.ofNat 32 (s.outcnt + j)) t)) := by
  obtain ⟨-, hwindow⟩ := h
  rcases copyBytes_cases n s with ⟨t, -, ht⟩ | ⟨i, t, hi, ht, hc, he⟩ | ⟨i, t, hi, ht, hc, ha, -⟩
  · have := ht.bound
    omega
  · have hcur := ht.cursor
    have hbound := ht.bound
    simp only [BitVec.le_def] at hc
    obtain rfl : i = j := by omega
    have hlen : t.cursor = s.latch.len := BitVec.eq_of_toNat_eq (hcur.trans hend)
    exact ⟨t, ht, hlen, by rw [he, hlen]⟩
  · rw [payloadAddr, ht.latch_eq] at ha
    simp only [BitVec.lt_def] at hc
    omega

/-- That OVERRUN entry, its record and the bytes it leaves. -/
theorem copyBytes_overrun {n j : Nat} {s : State} (hj : j < n) (h : Readable j s)
    (hend : s.cursor.toNat + j = s.latch.len.toNat) :
    ∃ t, (copyBytes n s).outcome = .next t ∧
      ErrorEntered 9 1 s.latch.len s.latch.target (BitVec.ofNat 32 (s.outcnt + j))
        { s with cursor := s.latch.len, outcnt := s.outcnt + j, draws := t.draws } t ∧
      (s.state = .busy → ∀ k, k < j → Cells.get s.touched (payloadAddr s + k) = 0 →
        Cells.get (w := 8) t.scr (s.outcnt + k) = Cells.get (w := 8) s.inp (payloadAddr s + k)) := by
  obtain ⟨t, ht, hlen, he⟩ := copyBytes_of_end hj h hend
  have hframe := ht.frame
  refine ⟨_, by rw [he, Flow.outcome], ?_, fun hb k hk htouched => ?_⟩
  · rw [ErrorEntered, raiseError, errWord_overrun, hframe, hlen]
  · have hbusy : t.state = .busy := by rw [hframe]; exact hb
    have hbelow : s.outcnt + k < t.outcnt := by rw [hframe]; exact Nat.add_lt_add_left hk _
    rw [get_raiseError_scr hbusy hbelow]
    exact ht.copied k hk htouched

/-! ### LIT, REP and COPY -/

/-- A run that does not fit raises RUN_OVERFLOW (R109). -/
theorem execLit_of_overflow {n : BitVec 7} {s : State} (h : s.latch.target.toNat < s.outcnt + litCount n) :
    execLit n s = .next (runOverflow (litCount n) s) := by
  rw [execLit, if_pos ((overflows_iff _ _).2 h)]

/-- A run that fits is copied. -/
theorem execLit_of_fits {n : BitVec 7} {s : State} (h : s.outcnt + litCount n ≤ s.latch.target.toNat) :
    execLit n s = (copyBytes (litCount n) s).outcome := by
  rw [execLit, if_neg (by rw [overflows_iff]; omega)]

theorem execRep_of_overflow {n : BitVec 7} {s : State} (h : s.latch.target.toNat < s.outcnt + repCount n) :
    execRep n s = .next (runOverflow (repCount n) s) := by
  rw [execRep, if_pos ((overflows_iff _ _).2 h)]

/-- A run that fits repeats the byte read. -/
theorem execRep_of_read {n : BitVec 7} {s t : State} {v : Byte}
    (h : s.outcnt + repCount n ≤ s.latch.target.toNat) (hr : readIn s = .ok v t) :
    execRep n s = .next (repeatByte v (repCount n) t) := by
  rw [execRep, if_neg (by rw [overflows_iff]; omega), hr]

theorem execRep_of_stop {n : BitVec 7} {s : State} {o : Host.Outcome State Fault Refusal}
    (h : s.outcnt + repCount n ≤ s.latch.target.toNat) (hr : readIn s = .stop o) : execRep n s = o := by
  rw [execRep, if_neg (by rw [overflows_iff]; omega), hr]

/-- A complete row ends the decompression (R101). -/
theorem decompressStep_of_complete {s : State} (h : s.latch.target.toNat ≤ s.outcnt) :
    decompressStep s = .next (rowDecompressed s) := by
  rw [decompressStep, if_neg (Nat.not_lt_of_le h)]

end Sys2Proof.Machine
end

section
/-! SUPPORT. Encodings of runs (40_rle.md R111): the control byte of each run, and how many bytes it stands for. -/

namespace Sys2Proof.Machine

/-- The instruction a run's control byte decodes to (R86). -/
def Run.instr : Run → Instr
  | .lit bs => .lit (BitVec.ofNat 7 (bs.length - 1))
  | .rep n _ => .rep (BitVec.ofNat 7 (129 - n))
  | .nop => .nop

/-- The operand bytes after a run's control byte (R81). -/
def Run.operands : Run → List Byte
  | .lit bs => bs
  | .rep _ b => [b]
  | .nop => []

theorem Run.wf_lit {bs : List Byte} (h : (Run.lit bs).wf = true) : 1 ≤ bs.length ∧ bs.length ≤ 128 := by
  simpa [Run.wf] using h

theorem Run.wf_rep {n : Nat} {b : Byte} (h : (Run.rep n b).wf = true) : 2 ≤ n ∧ n ≤ 128 := by
  simpa [Run.wf] using h

theorem litCount_of_length {n : Nat} (h1 : 1 ≤ n) (h2 : n ≤ 128) :
    litCount (BitVec.ofNat 7 (n - 1)) = n := by
  rw [litCount, BitVec.toNat_ofNat]
  omega

theorem repCount_of_length {n : Nat} (h1 : 2 ≤ n) (h2 : n ≤ 128) :
    repCount (BitVec.ofNat 7 (129 - n)) = n := by
  rw [repCount, BitVec.toNat_ofNat]
  omega

theorem encodeRuns_cons (r : Run) (rs : List Run) : encodeRuns (r :: rs) = r.encoded ++ encodeRuns rs := rfl

theorem expandRuns_cons (r : Run) (rs : List Run) : expandRuns (r :: rs) = r.expanded ++ expandRuns rs := rfl

/-- Disassembly decodes the first byte of the stream (R86). -/
theorem decodeControl_of_decodeStream {c : Byte} {i : Instr} {operands rest stream : List Byte}
    (h : decodeStream (c :: stream) = .ok (i, operands, rest)) : decodeControl c = i := by
  rw [decodeStream] at h
  split at h
  · cases h
  · injection h with h
    exact (Prod.mk.inj h).1

/-- A run's control byte decodes to its instruction, as its disassembly does (R86). -/
theorem Run.encoded_eq {r : Run} (h : r.wf = true) :
    ∃ c, r.encoded = c :: r.operands ∧ decodeControl c = r.instr := by
  cases r with
  | lit bs =>
    obtain ⟨h1, h2⟩ := Run.wf_lit h
    exact ⟨_, rfl, decodeControl_of_decodeStream (decodeStream_asmLit h1 h2 [])⟩
  | rep n b =>
    obtain ⟨h1, h2⟩ := Run.wf_rep h
    exact ⟨_, rfl, decodeControl_of_decodeStream (decodeStream_asmRep h1 h2 b [])⟩
  | nop => exact ⟨_, rfl, rfl⟩

/-- A run other than NOP stands for at least one byte. -/
theorem Run.expanded_pos {r : Run} (h : r.wf = true) (hn : r ≠ .nop) : 0 < r.expanded.length := by
  cases r with
  | lit bs => exact (Run.wf_lit h).1
  | rep n b =>
    have := (Run.wf_rep h).1
    simp only [Run.expanded, List.length_replicate]
    omega
  | nop => exact absurd rfl hn

/-- Runs that do not end in NOP stand for at least one byte. -/
theorem expandRuns_pos {rs : List Run} (hne : rs ≠ []) (hwf : ∀ r ∈ rs, r.wf = true)
    (hlast : rs.getLast? ≠ some .nop) : 0 < (expandRuns rs).length := by
  obtain ⟨front, last, rfl⟩ := List.eq_nil_or_concat rs |>.resolve_left hne
  have hpos : 0 < last.expanded.length :=
    Run.expanded_pos (hwf last (by simp)) (fun h => hlast (by simp [h]))
  rw [List.concat_eq_append, expandRuns_append, List.length_append, expandRuns_cons, List.length_append]
  omega

end Sys2Proof.Machine
end

section
/-! SUPPORT. A decompression that reads known bytes (40_rle.md R111): its runs write exactly their bytes, each
starting where the one before it ended. -/

namespace Sys2Proof.Machine

/-- From s to t the payload bytes `enc` were consumed and the bytes `exp` written to SCR from OUTCNT on, and
nothing else happened but for the hidden control offset. -/
structure Expanded (enc exp : List Byte) (s t : State) : Prop where
  frame : t = { s with scr := t.scr, outcnt := s.outcnt + exp.length,
                       cursor := s.cursor + BitVec.ofNat 32 enc.length, ctrlOff := t.ctrlOff }
  written : ∀ k b, exp[k]? = some b → Cells.get (w := 8) t.scr (s.outcnt + k) = b
  below : ∀ a, a < s.outcnt → Cells.get (w := 8) t.scr a = Cells.get (w := 8) s.scr a

theorem Expanded.refl (s : State) : Expanded [] [] s s where
  frame := by simp
  written := by simp
  below _ _ := rfl

theorem Expanded.trans {enc exp enc' exp' : List Byte} {s t u : State} (h : Expanded enc exp s t)
    (h' : Expanded enc' exp' t u) : Expanded (enc ++ enc') (exp ++ exp') s u := by
  have hout : t.outcnt = s.outcnt + exp.length := by rw [h.frame]
  refine ⟨?_, fun k b hb => ?_, fun a ha => ?_⟩
  · rw [h'.frame, h.frame]
    simp [Nat.add_assoc, BitVec.add_assoc, BitVec.ofNat_add]
  · rcases Nat.lt_or_ge k exp.length with hk | hk
    · rw [List.getElem?_append_left hk] at hb
      rw [h'.below _ (by omega)]
      exact h.written k b hb
    · rw [List.getElem?_append_right hk] at hb
      rw [show s.outcnt + k = t.outcnt + (k - exp.length) by omega]
      exact h'.written _ b hb
  · rw [h'.below a (by omega)]
    exact h.below a ha

/-- The known bytes after the consumed ones are still to be read. -/
theorem Expanded.payloadIs {enc exp rest : List Byte} {s t : State} (h : Expanded enc exp s t)
    (hp : PayloadIs (enc ++ rest) s) : PayloadIs rest t := by
  obtain ⟨⟨hlen, hwindow⟩, hbytes⟩ := hp
  rw [List.length_append] at hlen
  have hcur : (s.cursor + BitVec.ofNat 32 enc.length).toNat = s.cursor.toNat + enc.length := by
    rw [BitVec.toNat_add, BitVec.toNat_ofNat]
    omega
  rw [h.frame]
  refine ⟨⟨?_, hwindow⟩, fun k b hb => ?_⟩
  · simp only [hcur]
    omega
  · have haddr : payloadAddr s + (enc.length + k) =
        s.latch.base.toNat + (s.cursor + BitVec.ofNat 32 enc.length).toNat + k := by
      rw [hcur, payloadAddr]
      omega
    have := hbytes (enc.length + k) b (by
      rwa [List.getElem?_append_right (Nat.le_add_right _ _), Nat.add_sub_cancel_left])
    rwa [haddr] at this

theorem PayloadIs.left {enc rest : List Byte} {s : State} (h : PayloadIs (enc ++ rest) s) :
    PayloadIs enc s := by
  obtain ⟨⟨hlen, hwindow⟩, hbytes⟩ := h
  rw [List.length_append] at hlen
  refine ⟨⟨by omega, hwindow⟩, fun k b hb => hbytes k b ?_⟩
  rw [List.getElem?_append_left (List.getElem?_eq_some_iff.1 hb).1]
  exact hb

/-- A known byte is the one read. -/
theorem readIn_of_payloadIs {b : Byte} {s : State} (h : PayloadIs [b] s) :
    readIn s = .ok b (advance false s) := by
  obtain ⟨hread, hbytes⟩ := h
  obtain ⟨hbyte, htouched⟩ := hbytes 0 b rfl
  obtain ⟨v, d, hr, hv⟩ := readIn_of_readable hread
  obtain ⟨rfl, rfl⟩ := hv htouched
  rw [hr, ← hbyte]
  rfl

theorem advance_expanded (b : Byte) (s : State) : Expanded [b] [] s (advance false s) where
  frame := rfl
  written := by simp
  below _ _ := rfl

/-- Known bytes are copied as they are. -/
theorem Copied.expanded {bs : List Byte} {s t : State} (h : Copied bs.length s t) (hp : PayloadIs bs s) :
    Expanded bs bs s t := by
  obtain ⟨-, hbytes⟩ := hp
  have hget {k} (hk : k < bs.length) := hbytes k bs[k] (List.getElem?_eq_getElem hk)
  refine ⟨?_, fun k b hb => ?_, fun a ha => h.elsewhere a (.inl ha)⟩
  · have hdraws := h.drawsKept fun k hk => (hget hk).2
    rw [h.frame, h.cursor_eq, hdraws]
  · obtain ⟨hk, rfl⟩ := List.getElem?_eq_some_iff.1 hb
    rw [h.copied k hk (hget hk).2]
    exact (hget hk).1

theorem repeatByte_expanded (b : Byte) (n : Nat) (s : State) :
    Expanded [] (List.replicate n b) s (repeatByte b n s) := by
  obtain ⟨hframe, hcopies, helse, -⟩ := repeatByte_spec b n s
  refine ⟨by rw [hframe]; simp, fun k v hv => ?_, fun a ha => helse a (.inl ha)⟩
  obtain ⟨hk, rfl⟩ := List.getElem?_eq_some_iff.1 hv
  rw [List.getElem_replicate]
  exact hcopies k (by simpa using hk)

/-- A run that fits in the row writes its bytes (R102–R104). -/
theorem exec_run {r : Run} {s : State} (hwf : r.wf = true)
    (hfits : s.outcnt + r.expanded.length ≤ s.latch.target.toNat) (hp : PayloadIs r.operands s) :
    ∃ t, exec r.instr s = .next t ∧ Expanded r.operands r.expanded s t := by
  cases r with
  | lit bs =>
    obtain ⟨h1, h2⟩ := Run.wf_lit hwf
    have hn := litCount_of_length h1 h2
    obtain ⟨t, he, ht⟩ := copyBytes_of_readable (n := bs.length) hp.1
    refine ⟨t, ?_, ht.expanded hp⟩
    exact (execLit_of_fits (hn.symm ▸ hfits)).trans (by rw [hn, he, Flow.outcome])
  | rep n b =>
    obtain ⟨h1, h2⟩ := Run.wf_rep hwf
    have hn := repCount_of_length h1 h2
    have hfits' : s.outcnt + n ≤ s.latch.target.toNat := by simpa [Run.expanded] using hfits
    refine ⟨repeatByte b n (advance false s), ?_, (advance_expanded b s).trans (repeatByte_expanded b n _)⟩
    exact (execRep_of_read (hn.symm ▸ hfits') (readIn_of_payloadIs hp)).trans (by rw [hn])
  | nop => exact ⟨s, rfl, .refl s⟩

/-- One step decompresses one run, from its control byte to its last operand (R101). -/
theorem step_run {r : Run} {s : State} (hwf : r.wf = true) (hd : s.phase = .decompress)
    (hc : s.latch.comp ≠ 0) (ho : s.outcnt < s.latch.target.toNat)
    (hfits : s.outcnt + r.expanded.length ≤ s.latch.target.toNat) (hp : PayloadIs r.encoded s) :
    ∃ t, step s = .next t ∧ Expanded r.encoded r.expanded s t := by
  obtain ⟨c, henc, hdec⟩ := Run.encoded_eq hwf
  rw [henc] at hp ⊢
  have hfetch : Expanded [c] [] s (advance false (markControl s)) :=
    ⟨rfl, by simp, fun _ _ => rfl⟩
  obtain ⟨t, he, ht⟩ := exec_run (s := advance false (markControl s)) hwf hfits
    (hfetch.payloadIs (rest := r.operands) hp)
  refine ⟨t, ?_, hfetch.trans ht⟩
  have hread : readIn (markControl s) = .ok c (advance false (markControl s)) :=
    readIn_of_payloadIs (hp.left (enc := [c]))
  rw [step_of_decompress hd, decompressStep_of_control ho hc, fetchControl, hread]
  simpa only [hdec] using he

/-- What follows the first m steps of a run. -/
theorem steps_add {m : Nat} {s t : State} (h : steps m s = .next t) (n : Nat) :
    steps (m + n) s = steps n t := by
  induction m generalizing s with
  | zero =>
    injection h with h
    rw [Nat.zero_add, h]
  | succ m ih =>
    rw [Nat.add_right_comm, steps]
    rw [steps] at h
    split at h
    · exact ih h
    · cases h
    · cases h

/-- Runs that fill the row exactly are decompressed one a step (R111). -/
theorem steps_runs {rs : List Run} {s : State} (hwf : ∀ r ∈ rs, r.wf = true) (hlast : rs.getLast? ≠ some .nop)
    (hd : s.phase = .decompress) (hc : s.latch.comp ≠ 0)
    (hfill : s.outcnt + (expandRuns rs).length = s.latch.target.toNat) (hp : PayloadIs (encodeRuns rs) s) :
    ∃ t, steps rs.length s = .next t ∧ Expanded (encodeRuns rs) (expandRuns rs) s t := by
  induction rs generalizing s with
  | nil => exact ⟨s, rfl, .refl s⟩
  | cons r rs ih =>
    have hpos := expandRuns_pos (List.cons_ne_nil r rs) hwf hlast
    have hfill' : s.outcnt + (r.expanded.length + (expandRuns rs).length) = s.latch.target.toNat := by
      rw [← hfill, expandRuns_cons, List.length_append]
    rw [encodeRuns_cons] at hp
    obtain ⟨t, hst, ht⟩ := step_run (hwf r (by simp)) hd hc (by omega) (by omega) hp.left
    have hlast' : rs.getLast? ≠ some .nop := by
      cases rs with
      | nil => simp
      | cons q qs => rwa [List.getLast?_cons_cons] at hlast
    have hframe := ht.frame
    obtain ⟨u, hsteps, hu⟩ := ih (s := t) (fun q hq => hwf q (by simp [hq])) hlast' (by rw [hframe]; exact hd)
      (by rw [hframe]; exact hc) (by rw [hframe]; simp only; omega) (ht.payloadIs hp)
    exact ⟨u, (steps_succ hst _).trans hsteps, ht.trans hu⟩

end Sys2Proof.Machine
end

section
/-! SUPPORT. The row step to its end (43_commands.md R184): a decompression ends because each iteration consumes a
byte (40_rle.md R106), the palette entries a row looks up are in range (42_resolve.md R165), and the stages after
the decompression take a step each. -/

namespace Sys2Proof.Machine

/-! ### The decompression -/

theorem Raised.after {s t u : State} (hp : Progress s t) (hr : Raised t u) : Raised s u := by
  obtain ⟨v, c, o, e, f, hv, rfl⟩ := hr
  exact ⟨v, c, o, e, f, hp.trans hv, rfl⟩

/-- A decompression ends within S.LEN − CURSOR + 1 steps: the row is full, or an error is entered (R106). -/
theorem decompression_ends {s : State} (hd : s.phase = .decompress) (hw : WindowInside s) :
    ∃ k t, k ≤ s.latch.len.toNat - s.cursor.toNat + 1 ∧ steps k s = .next t ∧
      ((∃ u, Progress s u ∧ t = rowDecompressed u) ∨ Raised s t) := by
  induction hn : s.latch.len.toNat - s.cursor.toNat using Nat.strong_induction_on generalizing s with
  | _ n ih =>
    obtain ⟨t, ht⟩ := decompressStep_of_windowInside hw
    have hst : step s = .next t := (step_of_decompress hd).trans ht
    have hone : steps 1 s = .next t := steps_succ hst 0
    rcases decompressStep_next ht with ⟨-, rfl⟩ | ⟨-, hp, -⟩ | ⟨-, hr⟩
    · exact ⟨1, _, by omega, hone, .inl ⟨s, .refl s, rfl⟩⟩
    · have hphase : t.phase = .decompress := by rw [hp.frame]; exact hd
      have hwindow : WindowInside t := by rw [hp.frame]; exact hw
      obtain ⟨hlatch, hup, hbound⟩ := decompressStep_goes_on ht hphase
      simp only [BitVec.lt_def, BitVec.le_def] at hup hbound
      obtain ⟨k, u, hk, hsteps, hu⟩ := ih _ (by rw [hlatch]; omega) hphase hwindow rfl
      rw [hlatch] at hk
      refine ⟨k + 1, u, by omega, (steps_succ hst k).trans hsteps, hu.imp ?_ (Raised.after hp)⟩
      rintro ⟨v, hv, rfl⟩
      exact ⟨v, hp.trans hv, rfl⟩
    · exact ⟨1, t, by omega, hone, .inr hr⟩

/-! ### The palette entries of a row -/

/-- A raw index has no bit from S.EFF on (R144). -/
theorem deinterleaved_getLsbD_of_ge {s : State} {x q : Nat} (hx : x < s.latch.width.toNat)
    (h0 : Cells.get s.acc x = 0) (hq : s.latch.eff.toNat ≤ q) :
    (Cells.get (deinterleaved s) x).getLsbD q = false := by
  rw [deinterleaved, planes_getLsbD s _ _ x q hx h0]
  simp [Nat.not_lt_of_le hq]

/-- S.EFF counts the extra mask plane (R46). -/
theorem effOf_toNat (planes mask : Byte) :
    (effOf planes mask).toNat = if mask = 1 then planes.toNat + 1 else planes.toNat := by
  have := planes.isLt
  unfold effOf
  split
  · have hone : (1 : Half).toNat = 1 := rfl
    rw [BitVec.toNat_add, BitVec.toNat_setWidth, hone]
    omega
  · rw [BitVec.toNat_setWidth]
    omega

/-- RESOLVE-MASK takes the mask plane's bit away and leaves those below it (R161). -/
theorem resolveMask_getLsbD_of_ge {planes : Byte} {raw i : AccCell} {q : Nat}
    (hraw : ∀ q, planes.toNat + 1 ≤ q → raw.getLsbD q = false) (hi : resolveMask planes raw = some i)
    (hq : planes.toNat ≤ q) : i.getLsbD q = false := by
  unfold resolveMask at hi
  split at hi
  · cases hi
  · injection hi with hi
    subst hi
    rcases Nat.eq_or_lt_of_le hq with rfl | hlt
    · simp [BitVec.getLsbD_and, BitVec.getLsbD_not, BitVec.getLsbD_shiftLeft]
    · rw [BitVec.getLsbD_and, hraw q hlt, Bool.false_and]

/-- The palette entry a raw index of S.EFF bits looks up is below 2^S.PLANES (R165). -/
theorem resolveIndex_lt {l : Latch} {raw i : AccCell} (hl : LatchDerived l)
    (hraw : ∀ q, l.eff.toNat ≤ q → raw.getLsbD q = false) (hi : resolveIndex l raw = some i) :
    i.toNat < 2 ^ l.planes.toNat := by
  obtain ⟨-, heff, -⟩ := hl
  rw [heff, effOf_toNat] at hraw
  refine Nat.lt_pow_two_of_testBit _ fun q hq => ?_
  rw [BitVec.testBit_toNat]
  unfold resolveIndex at hi
  split at hi
  · next hmask =>
    rw [if_pos hmask] at hraw
    exact resolveMask_getLsbD_of_ge hraw hi hq
  · next hmask =>
    rw [if_neg hmask] at hraw
    have hsame : raw = i := by
      split at hi
      · unfold resolveKey at hi
        split at hi
        · cases hi
        · injection hi
      · injection hi
    rw [← hsame]
    exact hraw q hq

/-- A pixel whose palette entry is written has its colour. -/
theorem columnPixel_of_written {s : State} {x : Nat}
    (h : ∀ i, resolveIndex s.latch (Cells.get s.acc x) = some i → Cells.get s.palWritten i.toNat = 1) :
    columnPixel s x ≠ none := by
  unfold columnPixel
  split
  · exact Option.some_ne_none _
  · next i hi => simp [palRead, h i hi]

/-! ### The stages after the decompression -/

theorem step_of_deinterleave {s : State} (h : s.phase = .deinterleave) : step s = .next (deinterleave s) := by
  simp only [step, machineStep, h]

theorem step_of_resolve {s : State} (h : s.phase = .resolve) : step s = resolveRow s := by
  simp only [step, machineStep, h]

theorem step_of_handoff {s : State} (h : s.phase = .handoff) (hs : s.sinkReady = true) :
    step s = .next (handoff s) := by
  simp only [step, machineStep, h, hs, if_true]

/-- A resolve whose pixels all have their colour changes RB and ACC alone. -/
theorem step_of_resolvable {s : State} (h : s.phase = .resolve)
    (hpx : ∀ x, x < s.latch.width.toNat → columnPixel s x ≠ none) :
    ∃ t, step s = .next t ∧ t = { s with rb := t.rb, acc := t.acc, phase := .handoff } := by
  obtain ⟨t, ht⟩ := resolveColumns_runs (s := s) List.nodup_range fun x hx => hpx x (List.mem_range.1 hx)
  obtain ⟨hframe, -⟩ := resolveColumns_ok List.nodup_range ht
  refine ⟨rowResolved t, ?_, by rw [rowResolved, hframe]⟩
  rw [step_of_resolve h, resolveRow, ht]

/-- With a clear accumulator, the palette loaded and an accepting sink a decompressed row is handed out in three
steps. -/
theorem decompressed_row_handed_out {s : State} (hp : s.phase = .deinterleave) (hl : LatchDerived s.latch)
    (hacc : ∀ x, Cells.get s.acc x = 0) (hpal : PaletteLoaded s) (hs : s.sinkReady = true) :
    ∃ rb acc, steps 3 s = .next (handoff { s with rb := rb, acc := acc, phase := .handoff }) := by
  have hpx : ∀ x, x < (deinterleave s).latch.width.toNat → columnPixel (deinterleave s) x ≠ none := by
    refine fun x hx => columnPixel_of_written fun i hi => hpal _ (resolveIndex_lt hl ?_ hi)
    exact fun q hq => deinterleaved_getLsbD_of_ge hx (hacc x) hq
  obtain ⟨t, hresolve, hframe⟩ := step_of_resolvable (s := deinterleave s) rfl hpx
  refine ⟨t.rb, t.acc, ?_⟩
  have hready : t.sinkReady = true := by rw [hframe]; exact hs
  have hhand := step_of_handoff (s := t) (by rw [hframe]) hready
  rw [steps_succ (step_of_deinterleave hp), steps_succ hresolve, steps_succ hhand, steps, hframe]
  rfl

/-- An enabled row step begins where nothing is pending and the sink accepts (R183, R260). -/
theorem step_of_enabled {s : State} (hp : s.phase = .enabled) (hs : s.sinkReady = true) (hin : s.inputs = []) :
    step s = .next (beginRow s) := by
  have hwait : waitStep s = .next (beginRow s) := if_pos (mayBegin_of_ready hp hs)
  rw [step_of_rowStepRuns_false (by rw [rowStepRuns, hp]), inputStep, hin]
  exact hwait

end Sys2Proof.Machine
end

section
/-! THE DECOMPRESSOR'S OBLIGATIONS (40_rle.md), settled. -/

namespace Sys2Proof.Machine

/-- Settles O16: the runs fill the row, one a step, and one more step sees it complete. -/
theorem runSequenceDecompresses : Obligations.RunSequenceDecompresses := by
  intro rs s hwf hlast hd hc ho htarget hp
  obtain ⟨t, hsteps, ht⟩ := steps_runs hwf hlast hd hc (by omega) hp
  have hframe := ht.frame
  have hcomplete : t.latch.target.toNat ≤ t.outcnt := by rw [hframe]; simp only; omega
  have hphase : t.phase = .decompress := by rw [hframe]; exact hd
  have hend : step t = .next (rowDecompressed t) :=
    (step_of_decompress hphase).trans (decompressStep_of_complete hcomplete)
  refine ⟨rowDecompressed t, (steps_add hsteps 1).trans (steps_succ hend 0), ?_, fun k b hb => ?_⟩
  · rw [rowDecompressed, hframe]
    simp [ho]
  · have := ht.written k b hb
    rwa [ho, Nat.zero_add] at this

/-- Settles O39: one step begins the row, at most S.LEN − CURSOR + 1 decompress it, three hand it out. -/
theorem rowStepCompletes : Obligations.RowStepCompletes := by
  intro s hc hacc hpal hp hs hin
  have hsession : inSession s = true := by simp [inSession, hc.busy (by simp [hp])]
  have hclear := hacc.1 hsession (by simp [hp])
  obtain ⟨k, t, hk, hsteps, hend⟩ := decompression_ends (s := beginRow s) rfl (hc.windowInside hsession)
  simp only [beginRow_latch, beginRow_cursor] at hk
  have hbegin : steps (k + 1) s = .next t := (steps_succ (step_of_enabled hp hs hin) k).trans hsteps
  rcases hend with ⟨u, hu, rfl⟩ | ⟨u, c, o, e, f, hu, rfl⟩
  · have hframe := hu.frame
    obtain ⟨rb, acc, hrow⟩ := decompressed_row_handed_out (s := rowDecompressed u) rfl
      (by rw [hframe]; exact hc.derived) (by rw [hframe]; exact hclear) (by rw [hframe]; exact hpal)
      (by rw [hframe]; exact hs)
    refine ⟨k + 1 + 3, _, by omega, (steps_add hbegin 3).trans hrow, rfl, .inr ?_⟩
    rw [hframe]
    exact ⟨rfl, rfl, rfl, _, rfl, rfl, rowBytes_length _⟩
  · refine ⟨k + 1, _, by omega, hbegin, rfl, .inl ?_⟩
    rw [hu.frame]
    exact ⟨rfl, rfl, rfl, rfl⟩

/-- Settles O11, by the two sides of S.LEN; what a changed byte draws is its only other effect. -/
theorem readInIsBounded : Obligations.ReadInIsBounded := by
  intro s
  refine ⟨readIn_overrun, fun hread => ?_⟩
  obtain ⟨v, d, hr, hv⟩ := readIn_of_readable hread
  refine ⟨v, (advance d s).draws, hr, fun ht => ?_⟩
  obtain ⟨hbyte, rfl⟩ := hv ht
  exact ⟨hbyte, rfl⟩

/-- Settles O12, by whether the run fits and where the payload ends. -/
theorem litCopiesOrRaises : Obligations.LitCopiesOrRaises := by
  refine fun n s => ⟨fun hfits hread => ?_, fun hover => ?_, fun j hj hfits hread hend => ?_⟩
  · obtain ⟨t, he, ht⟩ := copyBytes_completes hread
    exact ⟨t, (execLit_of_fits hfits).trans he, ht⟩
  · exact ⟨_, execLit_of_overflow hover, runOverflow_errorEntered _ s⟩
  · obtain ⟨t, he, ht⟩ := copyBytes_overrun hj hread hend
    exact ⟨t, (execLit_of_fits hfits).trans he, ht⟩

/-- Settles O13, by whether the run fits and whether its data byte is there. -/
theorem repRepeatsOrRaises : Obligations.RepRepeatsOrRaises := by
  refine fun n s _ => ⟨fun hfits hread => ?_, fun hover => ?_, fun hfits hend => ?_⟩
  · obtain ⟨v, d, hr, hv⟩ := readIn_of_readable hread
    obtain ⟨hframe, hcopies, helse, -⟩ := repeatByte_spec v (repCount n) (advance d s)
    exact ⟨_, v, execRep_of_read hfits hr, by rw [hframe]; rfl, fun ht => (hv ht).1, hcopies, helse⟩
  · exact ⟨_, execRep_of_overflow hover, runOverflow_errorEntered _ s⟩
  · obtain ⟨t, hr, ht⟩ := readIn_overrun (BitVec.le_of_eq hend.symm)
    exact ⟨t, execRep_of_stop hfits hr, hend ▸ ht⟩

/-- Settles O15: COPY is the copy of S.TARGET bytes from OUTCNT 0 on. -/
theorem copyMovesTargetBytes : Obligations.CopyMovesTargetBytes := by
  refine fun s => ⟨fun hread => ?_, fun j hj hread hend => ?_⟩
  · obtain ⟨t, he, ht⟩ := copyBytes_completes (s := { s with outcnt := 0 }) hread
    simp only [Nat.zero_add, BitVec.ofNat_toNat, BitVec.setWidth_eq, Nat.not_lt_zero, false_or] at ht
    exact ⟨t, he, ht⟩
  · obtain ⟨t, he, ht⟩ := copyBytes_overrun (s := { s with outcnt := 0 }) hj hread hend
    simp only [Nat.zero_add] at ht
    exact ⟨t, he, ht⟩

/-- Settles O14: NOP's meaning is the state it is given. -/
theorem nopChangesNothing : Obligations.NopChangesNothing := fun _ => rfl

/-- Settles O24: the fetch consumes the control byte and runs what it decodes to. -/
theorem stepRunsControlInstruction : Obligations.StepRunsControlInstruction := by
  intro s hp ho hc hread
  obtain ⟨b, d, hfetch, hb⟩ := fetchControl_of_readable hread
  refine ⟨b, (advance d (markControl s)).draws, ?_, fun ht => ?_⟩
  · rw [step_of_decompress hp, decompressStep_of_control ho hc, hfetch]
    rfl
  · obtain ⟨hbyte, rfl⟩ := hb ht
    exact ⟨hbyte, rfl⟩

/-- Settles O27: the fetch's read is past the payload's end. -/
theorem missingControlByteRaisesOverrun : Obligations.MissingControlByteRaisesOverrun := by
  intro s hp ho hc hend
  obtain ⟨t, hr, ht⟩ := readIn_overrun (s := markControl s) hend
  refine ⟨t, ?_, ht⟩
  rw [step_of_decompress hp, decompressStep_of_control ho hc, fetchControl, hr]

/-- Settles O29: the loop's condition is tested before the next read. -/
theorem completeRowReadsNoMore : Obligations.CompleteRowReadsNoMore :=
  fun _ hp h => (step_of_decompress hp).trans (decompressStep_of_complete h)

end Sys2Proof.Machine
end

section
/-! SUPPORT. The accumulator: a raw index bit by bit (41_deinterleave.md R144, R146, R147), what of SCR it depends
on (R143), and the clear accumulator over each transition (R145, 42_resolve.md R164). -/

namespace Sys2Proof.Machine

/-! ### A raw index -/

theorem accMask_getLsbD (w : AccWidth) (q : Nat) : (accMask w).getLsbD q = decide (q < w.bits) := by
  cases w with
  | eight =>
    have hones : accMask .eight = (BitVec.allOnes 8).setWidth 9 := rfl
    rw [hones, BitVec.getLsbD_setWidth, BitVec.getLsbD_allOnes]
    rw [← Bool.decide_and]
    exact decide_eq_decide.2 (and_iff_right_of_imp Nat.lt_succ_of_lt)
  | nine => exact BitVec.getLsbD_allOnes

/-- A bit of a raw index is its plane's, where the image has that plane and the cell that bit (R144). -/
theorem deinterleaved_getLsbD {s : State} {x : Nat} (hx : x < s.latch.width.toNat)
    (h0 : Cells.get s.acc x = 0) (q : Nat) :
    (Cells.get (deinterleaved s) x).getLsbD q =
      (decide (q < s.latch.eff.toNat) && decide (q < s.params.accWidth.bits) && planeBit s q x) := by
  rw [deinterleaved, planes_getLsbD s _ _ x q hx h0, accMask_getLsbD]

/-- A raw index has S.EFF bits (R147). -/
theorem deinterleaved_lt_two_pow_eff {s : State} {x : Nat} (hx : x < s.latch.width.toNat)
    (h0 : Cells.get s.acc x = 0) : (Cells.get (deinterleaved s) x).toNat < 2 ^ s.latch.eff.toNat :=
  Nat.lt_pow_two_of_testBit _ fun _ hq => deinterleaved_getLsbD_of_ge hx h0 hq

/-- A raw index has ACC_WIDTH bits (R147). -/
theorem deinterleaved_lt_two_pow_accWidth {s : State} {x : Nat} (hx : x < s.latch.width.toNat)
    (h0 : Cells.get s.acc x = 0) :
    (Cells.get (deinterleaved s) x).toNat < 2 ^ s.params.accWidth.bits := by
  refine Nat.lt_pow_two_of_testBit _ fun q hq => ?_
  rw [BitVec.testBit_toNat, deinterleaved_getLsbD hx h0]
  simp [Nat.not_lt_of_le hq]

/-- The accumulator depends on SCR only through the plane bits of the image's columns (R143). -/
theorem deinterleaved_congr_scr {s : State} {other : Memory}
    (h : ∀ p x, p < s.latch.eff.toNat → x < s.latch.width.toNat →
      planeBit { s with scr := other } p x = planeBit s p x) :
    deinterleaved { s with scr := other } = deinterleaved s := by
  refine List.foldl_ext _ _ _ fun acc p hp => List.foldl_ext _ _ _ fun acc x hx => ?_
  rw [orPlaneBit, orPlaneBit, h p x (List.mem_range.1 hp) (List.mem_range.1 hx)]

/-- The state with the other choice of ACC_WIDTH (R7). -/
def withAccWidth (w : AccWidth) (s : State) : State := { s with params := { s.params with accWidth := w } }

/-- Bit 8 is the only one that the 8-bit cell loses (R146). -/
theorem deinterleaved_eight_eq_nine_mod {s : State} {x : Nat} (hx : x < s.latch.width.toNat)
    (h0 : Cells.get s.acc x = 0) :
    (Cells.get (deinterleaved (withAccWidth .eight s)) x).toNat =
      (Cells.get (deinterleaved (withAccWidth .nine s)) x).toNat % 2 ^ 8 := by
  refine Nat.eq_of_testBit_eq fun q => ?_
  have hbit (w : AccWidth) : (Cells.get (deinterleaved (withAccWidth w s)) x).toNat.testBit q =
      (decide (q < s.latch.eff.toNat) && decide (q < w.bits) && planeBit s q x) :=
    deinterleaved_getLsbD (s := withAccWidth w s) hx h0 q
  rw [Nat.testBit_mod_two_pow, hbit, hbit]
  by_cases hq : q < 8
  · simp [AccWidth.bits, hq, Nat.lt_succ_of_lt hq]
  · simp [AccWidth.bits, hq]

theorem step_deinterleave_next {s t : State} (hp : s.phase = .deinterleave) (hst : step s = .next t) :
    t = deinterleave s := by
  rw [step_of_deinterleave hp] at hst
  injection hst with ht
  exact ht.symm

/-! ### The clear accumulator -/

theorem AccClear.of_clear {t : State} (h : ∀ x, Cells.get t.acc x = 0) : AccClear t :=
  ⟨fun _ _ => h, fun _ x _ => h x⟩

/-- A row step in flight finds the accumulator clear, but for its resolve (R145). -/
theorem AccClear.clear_of_busy {s : State} (h : AccClear s) (hc : Controlled s) (hidle : s.phase ≠ .idle)
    (hres : s.phase ≠ .resolve) : ∀ x, Cells.get s.acc x = 0 :=
  h.1 (by simp [inSession, hc.busy hidle]) hres

/-- A deinterleave sets no bit from column S.WIDTH on (R142). -/
theorem deinterleave_accClear {s : State} (h : ∀ x, Cells.get s.acc x = 0) : AccClear (deinterleave s) :=
  ⟨fun _ hp => absurd rfl hp, fun _ x hx => (planes_elsewhere s _ _ x hx).trans (h x)⟩

/-- A resolve clears the cells of every column (R164); the others were clear. -/
theorem rowResolved_accClear {s u : State} (h : AccClear s) (hp : s.phase = .resolve)
    (hu : resolveColumns (List.range s.latch.width.toNat) s = .ok () u) : AccClear (rowResolved u) := by
  obtain ⟨-, hcells, -⟩ := resolveColumns_ok List.nodup_range hu
  refine .of_clear fun x => ?_
  rw [rowResolved_acc, hcells]
  split
  · rfl
  · next hx => exact h.2 hp x (Nat.le_of_not_lt (mt List.mem_range.2 hx))

/-- Outside a session ACC may hold anything: an ABORT leaves it unspecified (R188). -/
theorem closeSession_accClear (s : State) : AccClear (closeSession s) :=
  ⟨fun hs => absurd hs (by simp [inSession]), fun hp => absurd hp (by simp)⟩

/-- Every transition keeps the accumulator clear outside a resolve: the stages of a row step by R145 and R164, a
START, an error and a reset by clearing it. -/
theorem Transition.accClear {s t : State} (ht : Transition s t) (hc : Controlled s) (h : AccClear s) :
    AccClear t := by
  cases ht with
  | decompressed hp => exact .of_clear (h.clear_of_busy hc (by simp [hp]) (by simp [hp]))
  | progressed _ hp => rw [hp.frame]; exact h
  | failed _ hr =>
    obtain ⟨u, c, o, e, f, -, rfl⟩ := hr
    exact .of_clear Cells.get_nil
  | deinterleaved hp => exact deinterleave_accClear (h.clear_of_busy hc (by simp [hp]) (by simp [hp]))
  | resolved hp hu => exact rowResolved_accClear h hp hu
  | handedOff hp => exact .of_clear (h.clear_of_busy hc (by simp [hp]) (by simp [hp]))
  | began hm =>
    have hp := mayBegin_enabled hm
    exact .of_clear (h.clear_of_busy hc (by simp [hp]) (by simp [hp]))
  | filled a bs => rw [pokeAll_frame]; exact h
  | started => exact .of_clear Cells.get_nil
  | refused r => exact .of_clear Cells.get_nil
  | ordered => exact .of_clear Cells.get_nil
  | accepted hs =>
    have hp := hc.phase_idle (by simp [hs])
    exact .of_clear (h.1 (by simp [inSession, hs]) (by simp [hp]))
  | closed => exact closeSession_accClear _
  | wasReset => exact .of_clear Cells.get_nil
  | _ => exact h

end Sys2Proof.Machine
end

section
/-! THE DEINTERLEAVER'S OBLIGATIONS (41_deinterleave.md), settled. -/

namespace Sys2Proof.Machine

/-- Settles O55, by the transitions of a step. -/
theorem accumulatorClearKept : Obligations.AccumulatorClearKept :=
  fun _ _ hc h hst => (step_transition hst).accClear hc h

/-- Settles O30: the bits of each column's raw index, and the columns the planes do not reach. -/
theorem deinterleaveOrsPlaneBits : Obligations.DeinterleaveOrsPlaneBits := by
  refine fun s hp h0 => ⟨deinterleave s, step_of_deinterleave hp, rfl, fun x p hx => ?_, fun x hx => ?_⟩
  · rw [deinterleave_acc, deinterleaved_getLsbD hx (h0 x hx)]
    simp only [Bool.and_eq_true, decide_eq_true_eq, and_assoc, planeBit]
  · exact planes_elsewhere s _ _ x hx

/-- Settles O31: the two deinterleaves OR in the same plane bits. -/
theorem paddingBitsDoNotMatter : Obligations.PaddingBitsDoNotMatter := by
  intro s other t u hp hbits ht hu
  rw [step_deinterleave_next hp ht, step_deinterleave_next (s := { s with scr := other }) hp hu]
  exact deinterleaved_congr_scr hbits

/-- Settles O32: the narrower cells are the wider ones modulo 2^8, and an image of up to 8 planes reaches no
further. -/
theorem eightBitAccumulatorLosesMaskPlane : Obligations.EightBitAccumulatorLosesMaskPlane := by
  intro s t u hp h0 ht hu x hx
  obtain rfl := step_deinterleave_next (s := withAccWidth .eight s) hp ht
  obtain rfl := step_deinterleave_next (s := withAccWidth .nine s) hp hu
  have hmod := deinterleaved_eight_eq_nine_mod hx (h0 x hx)
  have hlt := deinterleaved_lt_two_pow_eff (s := withAccWidth .nine s) hx (h0 x hx)
  refine ⟨hmod, fun heff => BitVec.eq_of_toNat_eq (hmod.trans (Nat.mod_eq_of_lt ?_))⟩
  exact hlt.trans_le (Nat.pow_le_pow_right Nat.zero_lt_two heff)

/-- Settles O33: S.EFF and ACC_WIDTH bound the bits of a raw index. -/
theorem rawIndexBounded : Obligations.RawIndexBounded := by
  intro s t hp hl h0 hst x hx
  obtain rfl := step_deinterleave_next hp hst
  obtain ⟨-, heff, -⟩ := hl
  have hlt := deinterleaved_lt_two_pow_eff hx (h0 x hx)
  rw [heff, effOf_toNat] at hlt
  refine ⟨fun hm => ?_, fun hm => ?_, fun hw => ?_⟩
  · rwa [if_neg hm] at hlt
  · rwa [if_pos hm] at hlt
  · have hbits := deinterleaved_lt_two_pow_accWidth hx (h0 x hx)
    rwa [hw] at hbits

end Sys2Proof.Machine
end

section
/-! SUPPORT. The resolver column by column (42_resolve.md R160–R164): the entry or the transparency each masking
scheme gives a raw index, what RB and ACC hold after the resolve, and the checks of START that bound the palette
reads (R165). -/

namespace Sys2Proof.Machine

/-! ### The masking schemes -/

theorem resolveIndex_none {l : Latch} (h : l.mask = 0) (raw : AccCell) : resolveIndex l raw = some raw := by
  simp [resolveIndex, resolveNone, h]

theorem resolveIndex_mask {l : Latch} (h : l.mask = 1) (raw : AccCell) :
    resolveIndex l raw = resolveMask l.planes raw := if_pos h

theorem resolveIndex_key {l : Latch} (h : l.mask = 2) (raw : AccCell) :
    resolveIndex l raw = resolveKey l.tcolor raw := by
  simp [resolveIndex, h]

/-- The bits of a mask taken away are subtracted. -/
theorem and_not_toNat {w : Nat} (v m : BitVec w) : (v &&& ~~~m).toNat = v.toNat - (v &&& m).toNat := by
  have hdisjoint : (v &&& ~~~m) &&& (v &&& m) = 0#w := by
    ext q hq
    simp +contextual
  have hunion : (v &&& ~~~m) + (v &&& m) = v := by
    rw [BitVec.add_eq_or_of_and_eq_zero _ _ hdisjoint]
    ext q hq
    cases hm : m[q] <;> simp [hm]
  have hsum := BitVec.toNat_add_of_and_eq_zero hdisjoint
  rw [hunion] at hsum
  exact Nat.eq_sub_of_add_eq hsum.symm

/-- Clearing bit p subtracts 2^p where the bit is set (R161). -/
theorem and_not_bit_toNat (raw : AccCell) (p : Nat) :
    (raw &&& ~~~(1#9 <<< p)).toNat = raw.toNat - if raw.toNat.testBit p = true then 2 ^ p else 0 := by
  rw [and_not_toNat, ← BitVec.twoPow_eq, BitVec.and_twoPow, BitVec.testBit_toNat]
  split
  · next hbit => rw [BitVec.toNat_twoPow_of_lt (BitVec.lt_of_getLsbD hbit)]
  · rfl

/-- RESOLVE-MASK of the mask plane's bit alone (R161). -/
theorem resolveMask_transparent {planes : Byte} {raw : AccCell} (h : raw.toNat = 2 ^ planes.toNat) :
    resolveMask planes raw = none := if_pos h

/-- RESOLVE-MASK of any other raw index than the mask plane's bit alone (R161). -/
theorem resolveMask_opaque {planes : Byte} {raw : AccCell} (h : raw.toNat ≠ 2 ^ planes.toNat) :
    resolveMask planes raw = some (raw &&& ~~~(1#9 <<< planes.toNat)) := if_neg h

/-- The 16-bit comparison with S.TCOLOR is one of values (R162). -/
theorem setWidth_eq_tcolor_iff (raw : AccCell) (tcolor : Half) :
    raw.setWidth 16 = tcolor ↔ raw.toNat = tcolor.toNat := by
  rw [BitVec.toNat_eq, BitVec.toNat_setWidth_of_le (by decide)]

theorem resolveKey_transparent {tcolor : Half} {raw : AccCell} (h : raw.toNat = tcolor.toNat) :
    resolveKey tcolor raw = none := if_pos ((setWidth_eq_tcolor_iff raw tcolor).2 h)

theorem resolveKey_opaque {tcolor : Half} {raw : AccCell} (h : raw.toNat ≠ tcolor.toNat) :
    resolveKey tcolor raw = some raw := if_neg (mt (setWidth_eq_tcolor_iff raw tcolor).1 h)

/-! ### A resolved row -/

theorem step_resolve_next {s t : State} (hp : s.phase = .resolve) (hst : step s = .next t) :
    ∃ u, resolveColumns (List.range s.latch.width.toNat) s = .ok () u ∧ t = rowResolved u := by
  simpa [hp, rowStepRuns] using step_next hst

/-- The resolve clears the cells of the row's columns, and no other (R164). -/
theorem resolve_acc {s t : State} (hp : s.phase = .resolve) (hst : step s = .next t) (x : Nat) :
    Cells.get t.acc x = if x < s.latch.width.toNat then 0 else Cells.get s.acc x := by
  obtain ⟨u, hu, rfl⟩ := step_resolve_next hp hst
  obtain ⟨-, hacc, -⟩ := resolveColumns_ok List.nodup_range hu
  rw [rowResolved_acc, hacc]
  simp only [List.mem_range]

/-- The resolve writes the row's bytes of RB, and no other (R163). -/
theorem resolve_rb_of_ge {s t : State} (hp : s.phase = .resolve) (hst : step s = .next t) {a : Nat}
    (ha : 4 * s.latch.width.toNat ≤ a) : Cells.get (w := 8) t.rb a = Cells.get (w := 8) s.rb a := by
  obtain ⟨u, hu, rfl⟩ := step_resolve_next hp hst
  obtain ⟨-, -, -, helse, -⟩ := resolveColumns_ok List.nodup_range hu
  exact helse a (by rw [List.mem_range]; omega)

/-- RB holds the bytes of each column's pixel (R163). -/
theorem resolve_pixel {s t : State} (hp : s.phase = .resolve) (hst : step s = .next t) {x : Nat}
    (hx : x < s.latch.width.toNat) :
    ∃ px, columnPixel s x = some px ∧ ∀ k, k < 4 → Cells.get (w := 8) t.rb (4 * x + k) = px.getD k 0 := by
  obtain ⟨u, hu, rfl⟩ := step_resolve_next hp hst
  obtain ⟨-, -, hpixels, -⟩ := resolveColumns_ok List.nodup_range hu
  obtain ⟨px, hpx, -, hrb⟩ := hpixels x (List.mem_range.2 hx)
  exact ⟨px, hpx, hrb⟩

/-- A column without an index is transparent. -/
theorem resolve_transparent {s t : State} (hp : s.phase = .resolve) (hst : step s = .next t) {x : Nat}
    (hx : x < s.latch.width.toNat) (hi : resolveIndex s.latch (Cells.get s.acc x) = none) :
    TransparentPixel t x := by
  obtain ⟨px, hpx, hrb⟩ := resolve_pixel hp hst hx
  obtain rfl : [0, 0, 0, 0] = px := by simpa [columnPixel, hi] using hpx
  intro k hk
  rw [hrb k hk]
  interval_cases k <;> rfl

/-- A column with an index is the opaque colour of that palette entry. -/
theorem resolve_opaque {s t : State} (hp : s.phase = .resolve) (hst : step s = .next t) {x : Nat}
    (hx : x < s.latch.width.toNat) {i : AccCell} (hi : resolveIndex s.latch (Cells.get s.acc x) = some i) :
    OpaquePixel s t x i.toNat := by
  obtain ⟨px, hpx, hrb⟩ := resolve_pixel hp hst hx
  simp only [columnPixel, hi, palRead, Option.map_eq_some_iff] at hpx
  obtain ⟨c, hc, rfl⟩ := hpx
  obtain ⟨-, ⟨⟩⟩ := Option.ite_none_right_eq_some.1 hc
  exact ⟨hrb 0 (by decide), hrb 1 (by decide), hrb 2 (by decide), hrb 3 (by decide)⟩

/-! ### The palette reads of a session -/

/-- START's checks of PLANES and PALCOUNT (R182). -/
theorem validate_palette {p : Params} {l : Latch} (h : validate p l = none) :
    l.planes.toNat ≤ 8 ∧ 2 ^ l.planes.toNat ≤ l.palCount.toNat := by
  unfold validate at h
  split_ifs at h
  next hplanes _ _ _ _ hpal _ => exact ⟨by omega, Nat.le_of_not_lt hpal⟩

/-- The deinterleave of a clear accumulator leaves indexes below 2^S.PLANES (R165). -/
theorem deinterleave_resolveIndex_lt {s : State} (hl : LatchDerived s.latch)
    (hacc : ∀ x, Cells.get s.acc x = 0) {x : Nat} (hx : x < s.latch.width.toNat) {i : AccCell}
    (hi : resolveIndex s.latch (Cells.get (deinterleave s).acc x) = some i) :
    i.toNat < 2 ^ s.latch.planes.toNat :=
  resolveIndex_lt hl (fun _ hq => deinterleaved_getLsbD_of_ge hx (hacc x) hq) hi

end Sys2Proof.Machine
end

section
/-! THE RESOLVER'S OBLIGATIONS (42_resolve.md), settled. -/

namespace Sys2Proof.Machine

/-- Settles O34, scheme by scheme: each gives the column an index or none, and so its pixel. -/
theorem resolveWritesPixels : Obligations.ResolveWritesPixels := by
  intro s hp hwritten
  obtain ⟨t, hst, hframe⟩ := step_of_resolvable hp fun x hx => columnPixel_of_written fun i => hwritten x i hx
  refine ⟨t, hst, hframe, fun x hx => ?_, resolve_acc hp hst, fun a => resolve_rb_of_ge hp hst⟩
  have hopaque {i} := resolve_opaque (i := i) hp hst hx
  have htransparent := resolve_transparent hp hst hx
  refine ⟨fun hm => ?_, fun hm hraw => ?_, fun hm hraw => ?_, fun hm hraw => ?_, fun hm hraw => ?_⟩
  · exact hopaque (resolveIndex_none hm _)
  · exact htransparent ((resolveIndex_mask hm _).trans (resolveMask_transparent hraw))
  · rw [← and_not_bit_toNat]
    exact hopaque ((resolveIndex_mask hm _).trans (resolveMask_opaque hraw))
  · exact htransparent ((resolveIndex_key hm _).trans (resolveKey_transparent hraw))
  · exact hopaque ((resolveIndex_key hm _).trans (resolveKey_opaque hraw))

/-- Settles O35: S.EFF bounds the raw indexes and START's checks bound 2^S.PLANES, so a loaded palette holds every
entry the row looks up. -/
theorem paletteReadsInRange : Obligations.PaletteReadsInRange := by
  intro s hc hacc hp
  have hclear := hacc.clear_of_busy hc (by simp [hp]) (by simp [hp])
  have hsession : inSession s = true := by simp [inSession, hc.busy (by simp [hp])]
  obtain ⟨hplanes, hpal⟩ := validate_palette (hc.checked hsession)
  have hrange {x i} := deinterleave_resolveIndex_lt (x := x) (i := i) hc.derived hclear
  refine ⟨deinterleave s, step_of_deinterleave hp, fun x i hx hi => ⟨hrange hx hi, ?_, ?_⟩, fun hloaded => ?_⟩
  · exact Nat.pow_le_pow_right Nat.zero_lt_two hplanes
  · exact (hrange hx hi).trans_le hpal
  · obtain ⟨u, hst, hframe⟩ := step_of_resolvable (s := deinterleave s) rfl fun x hx =>
      columnPixel_of_written fun i hi => hloaded _ (hrange hx hi)
    exact ⟨u, hst, by rw [hframe]⟩

/-- Settles O37: the event's bytes are RB's, address by address. -/
theorem handoffEmitsRow : Obligations.HandoffEmitsRow := by
  intro s hp hs
  refine ⟨⟨s.row, rowBytes s⟩, step_of_handoff hp hs, rfl, rowBytes_length s, fun k hk => ?_⟩
  simp [rowBytes, hk]

end Sys2Proof.Machine
end

section
/-! SUPPORT. The commands by what each answers (43_commands.md R180–R188): the latches START loads and its seven
checks, STEP in each state, the range an ABORT leaves CURSOR in. -/

namespace Sys2Proof.Machine

/-! ### What START loads -/

/-- STRIDE fits in its 16 bits (R41). -/
theorem strideOf_toNat (width : Half) : (strideOf width).toNat = (width.toNat + 15) / 16 * 2 := by
  have := width.isLt
  rw [strideOf, BitVec.toNat_ofNat]
  omega

/-- A product of two 16-bit sizes fits in 32 bits (R46). -/
theorem targetOf_toNat (stride eff : Half) : (targetOf stride eff).toNat = stride.toNat * eff.toNat := by
  have hlt : stride.toNat * eff.toNat < 2 ^ 16 * 2 ^ 16 := Nat.mul_lt_mul'' stride.isLt eff.isLt
  rw [targetOf, BitVec.toNat_mul, BitVec.toNat_setWidth_of_le (by decide), BitVec.toNat_setWidth_of_le (by decide)]
  exact Nat.mod_eq_of_lt hlt

/-- START's latches are R46's formulas over the integers. -/
theorem latchOf_latchedFrom (c : Cfg) : LatchedFrom c (latchOf c) :=
  ⟨rfl, rfl, rfl, rfl, rfl, rfl, rfl, rfl, rfl, strideOf_toNat _, effOf_toNat _ _, targetOf_toNat _ _⟩

/-! ### START's checks -/

section
variable {p : Params} {l : Latch}

/-- R182's check 1. -/
theorem validate_badPlanes (h : l.planes.toNat < 1 ∨ 8 < l.planes.toNat) :
    validate p l = some ⟨.badPlanes, 0, 8, l.planes.setWidth 32⟩ := if_pos h

variable (hplanes : ¬ (l.planes.toNat < 1 ∨ 8 < l.planes.toNat))
include hplanes

/-- R182's check 2. -/
theorem validate_unsupportedCompression (h : 1 < l.comp.toNat) :
    validate p l = some ⟨.unsupportedCompression, 0, 1, l.comp.setWidth 32⟩ := by
  rw [validate, if_neg hplanes, if_pos h]

variable (hcomp : ¬ 1 < l.comp.toNat)
include hcomp

/-- R182's check 3. -/
theorem validate_unsupportedMasking (h : l.mask = 3) :
    validate p l = some ⟨.unsupportedMasking, 0, 2, 3⟩ := by
  rw [validate, if_neg hplanes, if_neg hcomp, if_pos h]

variable (hmask3 : l.mask ≠ 3)
include hmask3

/-- R182's check 4. -/
theorem validate_unrecognizedMasking (h : 3 < l.mask.toNat) :
    validate p l = some ⟨.unrecognizedMasking, 0, 2, l.mask.setWidth 32⟩ := by
  rw [validate, if_neg hplanes, if_neg hcomp, if_neg hmask3, if_pos h]

variable (hmask : ¬ 3 < l.mask.toNat)
include hmask

/-- R182's check 5. -/
theorem validate_widthTooLarge (h : p.maxWidth.toNat < l.width.toNat) :
    validate p l = some ⟨.widthTooLarge, 0, p.maxWidth.setWidth 32, l.width.setWidth 32⟩ := by
  rw [validate, if_neg hplanes, if_neg hcomp, if_neg hmask3, if_neg hmask, if_pos h]

variable (hwidth : ¬ p.maxWidth.toNat < l.width.toNat)
include hwidth

/-- R182's check 6. -/
theorem validate_paletteTooSmall (h : l.palCount.toNat < 2 ^ l.planes.toNat) :
    validate p l = some ⟨.paletteTooSmall, 0, BitVec.ofNat 32 (2 ^ l.planes.toNat), l.palCount⟩ := by
  rw [validate, if_neg hplanes, if_neg hcomp, if_neg hmask3, if_neg hmask, if_neg hwidth, if_pos h]

variable (hpal : ¬ l.palCount.toNat < 2 ^ l.planes.toNat)
include hpal

/-- R182's check 7; it expects the bytes of IN from S.BASE on. -/
theorem validate_window_fails (h : p.inLen.toNat < l.base.toNat + l.len.toNat) :
    validate p l = some ⟨.window, l.base, BitVec.ofNat 32 (p.inLen.toNat - l.base.toNat), l.len⟩ := by
  have hroom : (if l.base ≤ p.inLen then p.inLen - l.base else 0) =
      BitVec.ofNat 32 (p.inLen.toNat - l.base.toNat) := by
    split <;> bv_omega
  rw [validate, if_neg hplanes, if_neg hcomp, if_neg hmask3, if_neg hmask, if_neg hwidth, if_neg hpal, if_pos h,
    hroom]

/-- With R182's seven checks passed nothing is raised. -/
theorem validate_passes (h : ¬ p.inLen.toNat < l.base.toNat + l.len.toNat) : validate p l = none := by
  rw [validate, if_neg hplanes, if_neg hcomp, if_neg hmask3, if_neg hmask, if_neg hwidth, if_neg hpal, if_neg h]

end

/-! ### START -/

/-- Outside BUSY a START whose checks pass opens its session (R181). -/
theorem exec_start_of_passes {s : State} (hb : s.state ≠ .busy)
    (hv : validate s.params (latchOf s.cfg) = none) : exec .start s = .next (sessionReady (openSession s)) := by
  rw [exec, execStart, if_neg hb, hv]

/-- Outside BUSY a START raises the check that fails (R182, R222). -/
theorem exec_start_of_fails {s : State} {c : ErrCode} {code kind : Nat} {offset expected found : Word}
    (hb : s.state ≠ .busy) (hc : errWord c = BitVec.ofNat 32 (code + 256 * kind))
    (hv : validate s.params (latchOf s.cfg) = some ⟨c, offset, expected, found⟩) :
    ∃ t, exec .start s = .next t ∧ StartRefused code kind offset expected found s t := by
  refine ⟨raiseError c offset expected found (openSession s), ?_, ?_, latchOf_latchedFrom s.cfg, Cells.get_nil⟩
  · rw [exec, execStart, if_neg hb, hv]
  · rw [← hc]; rfl

/-- A START in BUSY is dropped (R187). -/
theorem exec_start_of_busy {s : State} (h : s.state = .busy) : exec .start s = .next s := if_pos h

/-! ### STEP -/

theorem exec_step_of_idle {s : State} (h : s.state = .idle) :
    exec .step s = .next (raiseError .ordering 0 1 0 s) := by rw [exec, execStep, h]

theorem exec_step_of_ready {s : State} (h : s.state = .ready) : exec .step s = .next (acceptStep s) := by
  rw [exec, execStep, h]

theorem exec_step_of_busy {s : State} (h : s.state = .busy) : exec .step s = .next s := by
  rw [exec, execStep, h]

theorem exec_step_of_done {s : State} (h : s.state = .done) :
    exec .step s = .next { s with rowValid := false } := by rw [exec, execStep, h]

theorem exec_step_of_error {s : State} (h : s.state = .error) : exec .step s = .next s := by
  rw [exec, execStep, h]

/-! ### ABORT -/

theorem exec_abort_of_idle {s : State} (h : s.state = .idle) :
    exec .abort s = .next { s with rowValid := false } := if_pos h

theorem exec_abort_of_open {s : State} (h : s.state ≠ .idle) : exec .abort s = .next (closeSession s) := if_neg h

/-- In BUSY an ABORT leaves CURSOR between its value at the STEP and S.LEN: the free part is taken modulo the
length of that range (R188, log 10). -/
theorem abortCursor_mem {s : State} (hb : s.state = .busy) (h : s.stepCursor ≤ s.latch.len) :
    s.stepCursor ≤ abortCursor s ∧ abortCursor s ≤ s.latch.len := by
  have hlen := s.latch.len.isLt
  have hfree : Config.freeAbortCursor s.draws % (s.latch.len.toNat - s.stepCursor.toNat + 1) <
      s.latch.len.toNat - s.stepCursor.toNat + 1 := Nat.mod_lt _ (Nat.succ_pos _)
  rw [abortCursor, if_pos hb]
  generalize Config.freeAbortCursor s.draws % (s.latch.len.toNat - s.stepCursor.toNat + 1) = free at hfree ⊢
  simp only [BitVec.le_def, BitVec.toNat_ofNat] at h ⊢
  have hmod : (s.stepCursor.toNat + free) % 2 ^ 32 = s.stepCursor.toNat + free := Nat.mod_eq_of_lt (by omega)
  omega

/-! ### The pending command -/

/-- The bits of a CTRL write that encode a command run it (R26, R180). -/
theorem writeAt_command {v : Word} {i : Instr} (h : decodeCommand v = some i) (s : State) :
    writeAt Reg.ctrl.offset v s = exec i s := by
  simp only [writeAt, decodeReg_offset, h]

/-- A CTRL write that encodes no command does nothing (R26, R180). -/
theorem writeAt_no_command {v : Word} (h : decodeCommand v = none) (s : State) :
    writeAt Reg.ctrl.offset v s = .next s := by
  simp only [writeAt, decodeReg_offset, h]

end Sys2Proof.Machine
end

section
/-! SUPPORT. The wait for a stalled sink (43_commands.md R197, log 25): an enabled row step waits exactly when its
decompression would fill the row, and in BUSY only an ABORT or a reset among the inputs releases the block. The
palette over each transition (R189). -/

namespace Sys2Proof.Machine

/-! ### A decompression to its end -/

/-- On the outside's turn with nothing pending the host waits for the block. -/
theorem step_of_nothing_pending {s : State} (hr : rowStepRuns s = false) (hin : s.inputs = []) :
    step s = waitStep s := by
  rw [step_of_rowStepRuns_false hr, inputStep, hin]

/-- With nothing pending a row step that may take place begins. -/
theorem step_of_mayBegin {s : State} (hr : rowStepRuns s = false) (hin : s.inputs = []) (hm : mayBegin s = true) :
    step s = .next (beginRow s) :=
  (step_of_nothing_pending hr hin).trans (if_pos hm)

/-- With nothing pending and no row step to begin, the block waits too (R232). -/
theorem step_of_not_mayBegin {s : State} (hr : rowStepRuns s = false) (hin : s.inputs = [])
    (hm : mayBegin s = false) : step s = .next s :=
  (step_of_nothing_pending hr hin).trans (if_neg (by simp [hm]))

theorem steps_of_step_self {s : State} (h : step s = .next s) (k : Nat) : steps k s = .next s := by
  induction k with
  | zero => rfl
  | succ k ih => exact (steps_succ h k).trans ih

/-- After an error with nothing pending the block waits. -/
theorem Raised.steps_eq {s t : State} (hr : Raised s t) (hin : s.inputs = []) (k : Nat) :
    steps k t = .next t := by
  obtain ⟨u, c, o, e, f, hp, rfl⟩ := hr
  refine steps_of_step_self (step_of_not_mayBegin rfl ?_ rfl) k
  rw [hp.frame]
  exact hin

/-- A run from the decompression that meets a filled row has a decompression that fills it. -/
theorem completes_of_steps {k : Nat} {s t : State} (hd : s.phase = .decompress) (hin : s.inputs = [])
    (hs : steps k s = .next t) (ht : t.phase = .deinterleave) : ∃ n, completes n s = true := by
  induction k generalizing s with
  | zero =>
    injection hs with hs
    subst hs
    rw [hd] at ht
    cases ht
  | succ k ih =>
    rw [steps, step_of_decompress hd] at hs
    split at hs
    · next u hu =>
      have goes_on {n : Nat} (h : u.phase = .deinterleave ∨ (u.phase = .decompress ∧ completes n u = true)) :
          completes (n + 1) s = true := by
        rw [completes, hu]
        simpa using h
      rcases decompressStep_next hu with ⟨-, rfl⟩ | ⟨-, hp, -⟩ | ⟨-, hr⟩
      · exact ⟨1, goes_on (n := 0) (.inl rfl)⟩
      · have hphase : u.phase = .decompress := by rw [hp.frame]; exact hd
        obtain ⟨n, hn⟩ := ih hphase (by rw [hp.frame]; exact hin) hs
        exact ⟨n + 1, goes_on (.inr ⟨hphase, hn⟩)⟩
      · rw [hr.steps_eq hin k] at hs
        obtain ⟨v, c, o, e, f, -, rfl⟩ := hr
        injection hs with hs
        subst hs
        cases ht
    · cases hs
    · cases hs

/-- A decompression that fills its row does so in a run of the machine. -/
theorem steps_of_completes {n : Nat} {s : State} (hd : s.phase = .decompress) (h : completes n s = true) :
    ∃ k t, steps k s = .next t ∧ t.phase = .deinterleave := by
  induction n generalizing s with
  | zero => cases h
  | succ n ih =>
    unfold completes at h
    split at h
    · next u hu =>
      have hst : step s = .next u := (step_of_decompress hd).trans hu
      simp only [Bool.or_eq_true, Bool.and_eq_true, decide_eq_true_eq] at h
      rcases h with hend | ⟨hphase, hn⟩
      · exact ⟨1, u, steps_succ hst 0, hend⟩
      · obtain ⟨k, t, hs, ht⟩ := ih hphase hn
        exact ⟨k + 1, t, (steps_succ hst k).trans hs, ht⟩
    · cases h
    · cases h

/-- The model's look ahead tells whether the row step would fill its row (R106, log 25). -/
theorem yieldsRow_iff {s : State} (hin : s.inputs = []) :
    yieldsRow s = true ↔ ∃ k t, steps k (beginRow s) = .next t ∧ t.phase = .deinterleave := by
  constructor
  · exact steps_of_completes rfl
  · rintro ⟨k, t, hs, ht⟩
    obtain ⟨n, hn⟩ := completes_of_steps (s := beginRow s) rfl hin hs ht
    exact completes_bounded hn (Nat.le_refl _)

/-- While the sink stalls an enabled row step may begin exactly when it would not end in a row (R197). -/
theorem mayBegin_of_stalled {s : State} (hp : s.phase = .enabled) (hs : s.sinkReady = false) :
    mayBegin s = !yieldsRow s := by
  simp [mayBegin, hp, hs]

/-! ### The inputs in BUSY -/

/-- In BUSY an input leaves STATE, unless it is an ABORT written to CTRL or a reset (R187, R188). -/
theorem takeInput_state_of_busy {i : Input} {s t : State} (h : takeInput i s = .next t)
    (hb : s.state = .busy) :
    t.state = .busy ∨
    (∃ a w v off, i = .write a w v ∧ windowOffset s.params a w = .ok off ∧ decodeReg off = some .ctrl ∧
      decodeCommand v = some .abort) ∨
    i = .reset := by
  rcases takeInput_next h with ⟨a, w, v, off, rfl, ho, hw⟩ | ⟨-, ht⟩ | ⟨-, rfl⟩ | ⟨a, bs, -, -, rfl⟩ |
      ⟨b, -, rfl⟩ | ⟨hi, -⟩
  · rcases writeAt_next hw with ht | ⟨-, i, c, ht⟩ | ⟨-, -, he⟩ | ⟨-, -, he⟩ | ⟨hd, hc, -⟩
    · left; rw [ht]; exact hb
    · left; rw [ht]; exact hb
    · left; rw [execStart_busy he hb]; exact hb
    · obtain rfl : s = t := by injection (exec_step_of_busy hb).symm.trans he
      exact .inl hb
    · exact .inr (.inl ⟨a, w, v, off, rfl, ho, hd, hc⟩)
  · left; rw [ht]; exact hb
  · exact .inl hb
  · left; rw [pokeAll_frame]; exact hb
  · exact .inl hb
  · exact .inr (.inr hi)

/-- On the outside's turn a step leaves BUSY only by an ABORT or a reset. -/
theorem step_state_of_busy {s t : State} (hr : rowStepRuns s = false) (hb : s.state = .busy)
    (hst : step s = .next t) : t.state = .busy ∨ TakesCommand .abort s ∨ TakesReset s := by
  rcases step_next hst with ⟨hp, -⟩ | ⟨hp, -⟩ | ⟨hp, -⟩ | ⟨hp, hs, -⟩ | ⟨-, -, rfl⟩ | ⟨-, rfl⟩ |
      ⟨-, i, rest, hin, ht⟩
  · simp [rowStepRuns, hp] at hr
  · simp [rowStepRuns, hp] at hr
  · simp [rowStepRuns, hp] at hr
  · simp [rowStepRuns, hp, hs] at hr
  · exact .inl hb
  · exact .inl hb
  · rcases takeInput_state_of_busy ht hb with hbusy | ⟨a, w, v, off, rfl, ho, hd, hc⟩ | rfl
    · exact .inl hbusy
    · exact .inr (.inl (.of_write hr hin ho hd hc))
    · exact .inr (.inr ⟨hr, by rw [hin, List.head?_cons]⟩)

/-- With its sink stalled a row that waits to begin or to be handed out leaves the turn to the outside (R197). -/
theorem rowStepRuns_of_stalled {s : State} (hp : s.phase = .enabled ∨ s.phase = .handoff)
    (hs : s.sinkReady = false) : rowStepRuns s = false := by
  rcases hp with hp | hp <;> simp [rowStepRuns, hp, hs]

/-! ### The palette -/

/-- Only a host write outside READY and BUSY and a reset change the palette (R189). -/
theorem Transition.palette {s t : State} (ht : Transition s t) :
    (t.pal = s.pal ∧ t.palWritten = s.palWritten) ∨ sessionOpen s = false ∨ TakesReset s := by
  cases ht with
  | progressed _ hp => rw [hp.frame]; exact .inl ⟨rfl, rfl⟩
  | failed _ hr =>
    obtain ⟨u, c, o, e, f, hp, rfl⟩ := hr
    rw [hp.frame]; exact .inl ⟨rfl, rfl⟩
  | resolved _ hu =>
    obtain ⟨hf, -⟩ := resolveColumns_ok List.nodup_range hu
    rw [hf]; exact .inl ⟨rfl, rfl⟩
  | paletteWritten i c hopen => exact .inr (.inl hopen)
  | filled a bs => rw [pokeAll_frame]; exact .inl ⟨rfl, rfl⟩
  | wasReset hr => exact .inr (.inr hr)
  | _ => exact .inl ⟨rfl, rfl⟩

end Sys2Proof.Machine
end

section
/-! THE COMMANDS' OBLIGATIONS (43_commands.md), settled. -/

namespace Sys2Proof.Machine

/-- Settles O17: the seven checks pass, and what START then opens has R46's latches and empty stores. -/
theorem startOpensSession : Obligations.StartOpensSession := by
  intro s hb hplanes1 hplanes8 hcomp hmask hwidth hpal hwindow
  have hplanes : ¬ (s.cfg.planes.toNat < 1 ∨ 8 < s.cfg.planes.toNat) := by omega
  have hmask3 : s.cfg.masking ≠ 3 := by bv_omega
  have hmask4 : ¬ 3 < s.cfg.masking.toNat := by omega
  have hv : validate s.params (latchOf s.cfg) = none :=
    validate_passes hplanes hcomp.not_gt hmask3 hmask4 hwidth.not_gt hpal.not_gt hwindow.not_gt
  exact ⟨_, exec_start_of_passes hb hv, rfl, latchOf_latchedFrom s.cfg, Cells.get_nil, Cells.get_nil⟩

/-- Settles O18, check by check: with the earlier ones passed each is the one raised. -/
theorem startChecksInOrder : Obligations.StartChecksInOrder := by
  intro s hb
  refine ⟨fun h => exec_start_of_fails (c := .badPlanes) hb rfl (validate_badPlanes h),
    fun hplanes1 hplanes8 => ?_⟩
  have hplanes : ¬ (s.cfg.planes.toNat < 1 ∨ 8 < s.cfg.planes.toNat) := by omega
  refine ⟨fun h => exec_start_of_fails (c := .unsupportedCompression) hb rfl
    (validate_unsupportedCompression hplanes h), fun hle => ?_⟩
  have hcomp : ¬ 1 < s.cfg.compression.toNat := hle.not_gt
  refine ⟨fun h => exec_start_of_fails (c := .unsupportedMasking) hb rfl
    (validate_unsupportedMasking hplanes hcomp h), fun h => ?_, fun hle => ?_⟩
  · have hmask3 : s.cfg.masking ≠ 3 := by bv_omega
    exact exec_start_of_fails (c := .unrecognizedMasking) hb rfl
      (validate_unrecognizedMasking hplanes hcomp hmask3 h)
  have hmask3 : s.cfg.masking ≠ 3 := by bv_omega
  have hmask : ¬ 3 < s.cfg.masking.toNat := by omega
  refine ⟨fun h => exec_start_of_fails (c := .widthTooLarge) hb rfl
    (validate_widthTooLarge hplanes hcomp hmask3 hmask h), fun hle => ?_⟩
  have hwidth : ¬ s.params.maxWidth.toNat < s.cfg.width.toNat := hle.not_gt
  refine ⟨fun h => exec_start_of_fails (c := .paletteTooSmall) hb rfl
    (validate_paletteTooSmall hplanes hcomp hmask3 hmask hwidth h), fun hle h => ?_⟩
  exact exec_start_of_fails (c := .window) hb rfl
    (validate_window_fails hplanes hcomp hmask3 hmask hwidth hle.not_gt h)

/-- Settles O23, by whether a session or an error is there to close; in BUSY the free CURSOR is in its range. -/
theorem abortClosesSession : Obligations.AbortClosesSession := by
  intro s
  by_cases hs : s.state = .idle
  · exact ⟨_, exec_abort_of_idle hs, by rw [← hs], fun _ => rfl, fun h => absurd hs h, fun _ => rfl,
      fun hb => by rw [hs] at hb; cases hb⟩
  · exact ⟨_, exec_abort_of_open hs, rfl, fun h => absurd h hs, fun _ => rfl,
      closeSession_cursor_of_not_busy, abortCursor_mem⟩

/-- Settles O38: what begins in a stall is decided by the look ahead of the row step, and what leaves it by the
inputs. -/
theorem stalledSinkHoldsBusy : Obligations.StalledSinkHoldsBusy := by
  intro s hp hs hb
  have hr := rowStepRuns_of_stalled hp hs
  refine ⟨fun hin hp => ⟨fun hfills => ?_, fun hnever => ?_⟩, fun hin hp => ?_, fun t hst => ⟨?_, ?_⟩⟩
  · have hy := (yieldsRow_iff hin).2 hfills
    exact step_of_not_mayBegin hr hin (by simp [mayBegin_of_stalled hp hs, hy])
  · have hy : ¬ yieldsRow s = true :=
      (yieldsRow_iff hin).not.2 fun ⟨k, t, hsteps, ht⟩ => hnever k t hsteps ht
    exact step_of_mayBegin hr hin (by simp [mayBegin_of_stalled hp hs, hy])
  · exact step_of_not_mayBegin hr hin (by simp [mayBegin, hp])
  · rcases rowsLeaveOnlyWhole s t hst with hout | ⟨-, hready, -⟩
    · exact hout
    · rw [hs] at hready; cases hready
  · exact step_state_of_busy hr hb hst

/-- Settles O58, by the transitions of a step: the palette is closed to the host in READY and BUSY. -/
theorem paletteFixedInSession : Obligations.PaletteFixedInSession := by
  intro s t hs hst
  rcases (step_transition hst).palette with hpal | hclosed | hreset
  · exact .inl hpal
  · rw [(sessionOpen_iff s).2 hs] at hclosed; cases hclosed
  · exact .inr hreset

/-- Settles O19: START in BUSY, STEP in BUSY and in ERROR answer the state they are given. -/
theorem droppedCommandsChangeNothing : Obligations.DroppedCommandsChangeNothing :=
  fun _ => ⟨fun hb => ⟨exec_start_of_busy hb, exec_step_of_busy hb⟩, exec_step_of_error⟩

/-- Settles O20: the accepted STEP is the row step enabled. -/
theorem stepAcceptedInReady : Obligations.StepAcceptedInReady :=
  fun _ => exec_step_of_ready

/-- Settles O21: DONE's arm writes ROW_VALID alone. -/
theorem stepInDoneGivesNoRow : Obligations.StepInDoneGivesNoRow :=
  fun _ => exec_step_of_done

/-- Settles O22: the error entry of R222 with ORDERING's record. -/
theorem stepInIdleRaisesOrdering : Obligations.StepInIdleRaisesOrdering :=
  fun _ hs => ⟨_, exec_step_of_idle hs, raiseError_errorEntered rfl _ _ _ _⟩

/-- Settles O26: the write reaches CTRL, whose word is decoded as a command. -/
theorem stepRunsCommand : Obligations.StepRunsCommand :=
  fun _ _ _ h => ⟨fun _ hi => h.step_eq.trans (writeAt_command hi _),
    fun hn => h.step_eq.trans (writeAt_no_command hn _)⟩

end Sys2Proof.Machine
end

section
/-! THE EXCEPTIONS' OBLIGATION (60_exceptions.md), settled, from what each transition makes of an ERROR state. -/

namespace Sys2Proof.Machine

/-- With no row step in flight no error arises in a row and no row is handed out, and a STEP raises an error in IDLE
alone (R186, R225): what remains to leave ERROR or change its record is R225's list. -/
theorem Transition.error_kept_or_left {s t : State} (ht : Transition s t) (hs : s.state = .error)
    (hidle : s.phase = .idle) :
    (t.state = .error ∧ t.err = s.err) ∨ TakesCommand .start s ∨
      (TakesCommand .abort s ∧ t.state = .idle ∧ t.err = s.err) ∨ TakesReset s := by
  cases ht with
  | progressed hp => rw [hidle] at hp; cases hp
  | failed hp => rw [hidle] at hp; cases hp
  | resolved hp => rw [hidle] at hp; cases hp
  | handedOff hp => rw [hidle] at hp; cases hp
  | filled a bs => rw [pokeAll_frame]; exact .inl ⟨hs, rfl⟩
  | started _ hstart => exact .inr (.inl hstart)
  | refused _ _ hstart => exact .inr (.inl hstart)
  | ordered hi => rw [hs] at hi; cases hi
  | accepted hr => rw [hs] at hr; cases hr
  | closed _ habort => exact .inr (.inr (.inl ⟨habort, rfl, rfl⟩))
  | wasReset hreset => exact .inr (.inr (.inr hreset))
  | _ => exact .inl ⟨hs, rfl⟩

/-- Settles O59, by the transitions of a step: in ERROR the control invariant leaves no row step in flight. -/
theorem errorIsSticky : Obligations.ErrorIsSticky := by
  intro s t hc hs hst
  have hidle : s.phase = .idle := hc.phase_idle (by simp [hs])
  exact (step_transition hst).error_kept_or_left hs hidle

end Sys2Proof.Machine
end

section
/-! RESET'S OBLIGATION (70_reset_and_hazards.md), settled. -/

namespace Sys2Proof.Machine

/-- A reset is accepted in every state of the block (R250). -/
theorem takeInput_reset (s : State) : takeInput .reset s = .next (resetBlock s) := rfl

/-- Settles O51: a reset never waits for the block, so on the outside's turn the step takes it. -/
theorem resetClearsTheBlock : Obligations.ResetClearsTheBlock := by
  intro s rest hturn hin
  rw [step_of_input hturn hin rfl, takeInput_reset, resetBlock]

end Sys2Proof.Machine
end
